-- ==== Sys2Proof/Word.lean ====
section
/-! DEFINITION. The word types of the block: 00_scope.md R10 (all values unsigned, bit 0 the least significant). -/

namespace Sys2Proof

/-- One byte: a wire byte, a packet byte, a store byte. -/
abbrev Byte := BitVec 8

/-- A 16-bit value: CRC-16, an I2C register, a rating. -/
abbrev Half := BitVec 16

/-- A byte sequence, index 0 first (00_scope.md R10). -/
abbrev Bytes := List Byte

end Sys2Proof
end

