-- ==== Sys2Proof/Syntax.lean ====
section
/-! DEFINITION. The sequencing cursors (30_encoding.md R103), the classes the block decodes its coded inputs
into (R90), and the rows of spec/opcode_table.json as the constructors of `Instr`. -/

namespace Sys2Proof

/-- `rx_state`, 10_state.md R30. -/
inductive RxState where
  | idle | assembling | finishing
deriving DecidableEq, Repr

/-- `tx_state`, 10_state.md R35. -/
inductive TxState where
  | idle | escWait | sending | done
deriving DecidableEq, Repr

/-- `session_state`, 10_state.md R41. -/
inductive SessionState where
  | start | packetReady | decode | respond | txStart | waitTx | waitDrain | finish
deriving DecidableEq, Repr

/-- `fg_cont`, 10_state.md R47. -/
inductive FgCont where
  | fgNone | fgI2cWait
deriving DecidableEq, Repr

/-- `i2c_dir`, 10_state.md R50: 0 is write, 1 is read. -/
inductive Dir where
  | write | read
deriving DecidableEq, Repr

/-- The seven classes of a received byte, 30_encoding.md R91. -/
inductive RxClass where
  | drop | escaped | start | ignore | endMark | esc | data
deriving DecidableEq, Repr

/-- The five transmit actions, 43_frame_transmitter.md R200. -/
inductive TxAction where
  | startMark | data | esc | escaped | endMark
deriving DecidableEq, Repr

/-- The control-byte variants, 30_encoding.md R95, and every other value (R104). -/
inductive Control where
  | req8 | req16 | ack8 | nak8 | ack16 | nak16 | irq16 | other
deriving DecidableEq, Repr

/-- The eleven commands, 30_encoding.md R98, and every other code (R105). -/
inductive Command where
  | noOp | getNodeId | getCommStatus | getIrqPoll | output | getVolts | getCurrent | getPower
  | shuntConfig | programAddress | enumRequest | unknown
deriving DecidableEq, Repr

/-- The sub-commands of get/set-output, 46_command_dispatch.md R263. -/
inductive OutputSub where
  | clear | set | read
deriving DecidableEq, Repr

/-- The sub-commands of get/set-shunt-config, 46_command_dispatch.md R267. -/
inductive ShuntSub where
  | readConfig | writeConfig | readCal
deriving DecidableEq, Repr

/-- The telemetry quantity `k` of 46_command_dispatch.md R271. -/
inductive Quantity where
  | volts | current | power
deriving DecidableEq, Repr

/-- The instructions: one constructor per row of spec/opcode_table.json, in the table's order. A row is one
step of the block at some level of its decoding (30_encoding.md R90). -/
inductive Instr where
  -- wire_rx
  | rxDrop (b : Byte)
  | rxEscaped (b : Byte)
  | rxStart
  | rxIgnore (b : Byte)
  | rxEnd
  | rxEsc
  | rxData (b : Byte)
  -- wire_tx
  | txStartMark
  | txData
  | txEsc
  | txEscaped
  | txEndMark
  -- control_byte
  | req8
  | req16
  | ack8
  | nak8
  | ack16
  | nak16
  | irq16
  | hdrOther (b : Byte)
  -- address_byte
  | addrBroadcast
  | addrUnicast (a : Byte)
  -- command
  | noOp
  | getNodeId
  | getCommStatus
  | getIrqPoll
  | getSetOutput
  | getVolts
  | getCurrent
  | getPower
  | getSetShuntConfig
  | cmdProgramAddress
  | enumerationRequest
  | cmdUnknown (c : Byte)
  | notify
  -- sub_command
  | outputClear
  | outputSet
  | outputRead
  | shuntReadConfig
  | shuntWriteConfig
  | shuntReadCal
  -- session_state
  | pollSStart
  | pollSPacketReady
  | pollSDecode
  | pollSRespond
  | pollSTxStart
  | pollSWaitTx
  | pollSWaitDrain
  | pollSFinish
  | pollFgI2cWait
  -- i2c_phase
  | i2cPh0 (d : Byte)
  | i2cPh1 (d : Byte)
  | i2cPh2 (d : Byte)
  | i2cPh3 (d : Byte)
  | i2cPh4 (d : Byte)
  | i2cPh5 (d : Byte)
  | i2cPh6 (d : Byte)
  | i2cPh7 (d : Byte)
  | i2cPh8 (d : Byte)
  | i2cIllegal (phase : BitVec 4) (d : Byte)
  | i2cAddrByte (a : BitVec 7) (r : Dir)
  -- operation
  | rxByte (b : Byte)
  | txReady
  | tickRx
  | tickArb
  | i2cEvent (d : Byte)
  | poll
  | crc8 (buf : Bytes)
  | crc16 (seed : Half) (buf : Bytes)
  | i2cBegin (dir : Dir) (reg : Byte) (val : Half)
  | reseed
  | raise (r : Byte)
  | programAddress (a : Byte)
deriving DecidableEq, Repr

end Sys2Proof
end

