-- ==== Sys2Proof/Config.lean ====
section
/-! DEFINITION. The configuration `Cfg` of 00_scope.md R6 as plain data, its constraints (R7), the test
configuration T0 (D34) and the open functions of 93_implementation_defined.md U17. -/

namespace Sys2Proof

/-- Shift direction of a CRC engine, 40_crc.md R131 and R132. -/
inductive CrcDir where
  | msbFirst | lsbFirst
deriving DecidableEq, Repr

/-- `I2C_ERR_POLICY`, 44_i2c_engine.md R230. -/
inductive I2cErrPolicy where
  | never | onIllegalCursor
deriving DecidableEq, Repr

/-- Which functions `CalConst`, `TelExp` and `TelScale` stand for: T0's stand-ins, or the `n`-th choice of
open functions, of which nothing is known. Log entry 3. -/
inductive Arithmetic where
  | standIn
  | free (n : Nat)
deriving DecidableEq, Repr

/-- The open `CalConst` (DESIGN CHOICE, safe: no body, so no proof can use a value of it). Log entry 3. -/
opaque Config.openCalConst : Nat → Byte → Half → Half

/-- The open `TelExp` (DESIGN CHOICE, safe). Log entry 3. -/
opaque Config.openTelExp : Nat → Quantity → Byte

/-- The open `TelScale` of volts and of current; power's is 25 times current's (DESIGN CHOICE, safe).
Log entry 3. -/
opaque Config.openTelScaleVolts : Nat → Byte → Half → BitVec 32

@[inherit_doc Config.openTelScaleVolts]
opaque Config.openTelScaleCurrent : Nat → Byte → Half → BitVec 32

/-- `BROADCAST`, the one value the source fixes (00_scope.md R6). -/
def broadcast : Byte := 0xFF

/-- The parameters of 00_scope.md R6, under the spec's names. -/
structure Cfg where
  frameStart : Byte
  frameEnd : Byte
  esc : Byte
  cap : Nat
  rxTimeoutTicks : Nat
  poly8 : Byte
  crc8Init : Byte
  crc8Dir : CrcDir
  poly16 : Half
  crc16Dir : CrcDir
  hdrReq8 : Byte
  hdrReq16 : Byte
  hdrAck8 : Byte
  hdrNak8 : Byte
  hdrAck16 : Byte
  hdrNak16 : Byte
  hdrIrq16 : Byte
  cmdNop : Byte
  cmdGetNodeId : Byte
  cmdGetCommStatus : Byte
  cmdGetIrqPoll : Byte
  cmdOutput : Byte
  cmdGetVolts : Byte
  cmdGetCurrent : Byte
  cmdGetPower : Byte
  cmdShuntConfig : Byte
  cmdProgramAddress : Byte
  cmdEnumRequest : Byte
  notifyCmd : Byte
  defaultAddr : Byte
  i2cDevAddr : BitVec 7
  regBusv : Byte
  regPower : Byte
  regCurrent : Byte
  regCal : Byte
  irqNone : Byte
  irqAtBoot : Byte
  irqEnum : Byte
  moduleId : Half
  fwVersion : Half
  errNone : Byte
  errBadCmd : Byte
  errBadParam : Byte
  cfgOffset : Nat
  addrOffset : Nat
  cfgSignature : Half
  defaultVrating : Byte
  defaultIrating : Half
  i2cErrPolicy : I2cErrPolicy
  arithmetic : Arithmetic
deriving DecidableEq, Repr

namespace Cfg

/-- The seven control-byte values, in R95's order. -/
def headers (c : Cfg) : Bytes :=
  [c.hdrReq8, c.hdrReq16, c.hdrAck8, c.hdrNak8, c.hdrAck16, c.hdrNak16, c.hdrIrq16]

/-- The eleven command codes, in R98's order. -/
def commands (c : Cfg) : Bytes :=
  [c.cmdNop, c.cmdGetNodeId, c.cmdGetCommStatus, c.cmdGetIrqPoll, c.cmdOutput, c.cmdGetVolts,
   c.cmdGetCurrent, c.cmdGetPower, c.cmdShuntConfig, c.cmdProgramAddress, c.cmdEnumRequest]

/-- The constraints (a) to (h) of 00_scope.md R7, and the ranges R6 gives the two default ratings. -/
abbrev Legal (c : Cfg) : Prop :=
  [c.frameStart, c.frameEnd, c.esc].Nodup
  ∧ (c.frameStart ≤ c.esc ∧ c.frameEnd ≤ c.esc)
  ∧ c.headers.Nodup
  ∧ c.commands.Nodup
  ∧ (5 ≤ c.cap ∧ c.cap ≤ 254)
  ∧ c.defaultAddr ≠ broadcast
  ∧ ([c.irqNone, c.irqAtBoot, c.irqEnum].Nodup ∧ [c.errNone, c.errBadCmd, c.errBadParam].Nodup)
  ∧ 1 ≤ c.rxTimeoutTicks
  ∧ (1 ≤ c.defaultVrating ∧ c.defaultVrating ≤ 80)
  ∧ (1 ≤ c.defaultIrating ∧ c.defaultIrating ≤ 200)

end Cfg

/-- The test configuration T0, last column of 00_scope.md R6 (D34). It is no claim about the hardware:
log entry 1. -/
def T0 : Cfg where
  frameStart := 0x02
  frameEnd := 0x03
  esc := 0x1A
  cap := 16
  rxTimeoutTicks := 4
  poly8 := 0x07
  crc8Init := 0x00
  crc8Dir := .msbFirst
  poly16 := 0x1021
  crc16Dir := .msbFirst
  hdrReq8 := 0x81
  hdrReq16 := 0x82
  hdrAck8 := 0x83
  hdrNak8 := 0x84
  hdrAck16 := 0x85
  hdrNak16 := 0x86
  hdrIrq16 := 0x87
  cmdNop := 0x00
  cmdGetNodeId := 0x01
  cmdGetCommStatus := 0x02
  cmdGetIrqPoll := 0x03
  cmdOutput := 0x04
  cmdGetVolts := 0x05
  cmdGetCurrent := 0x06
  cmdGetPower := 0x07
  cmdShuntConfig := 0x08
  cmdProgramAddress := 0x09
  cmdEnumRequest := 0x0A
  notifyCmd := 0x0B
  defaultAddr := 0x05
  i2cDevAddr := 0x40
  regBusv := 0x02
  regPower := 0x03
  regCurrent := 0x04
  regCal := 0x05
  irqNone := 0x00
  irqAtBoot := 0x01
  irqEnum := 0x02
  moduleId := 0x1234
  fwVersion := 0x0102
  errNone := 0x00
  errBadCmd := 0x01
  errBadParam := 0x02
  cfgOffset := 0
  addrOffset := 16
  cfgSignature := 0xA55A
  defaultVrating := 50
  defaultIrating := 100
  i2cErrPolicy := .never
  arithmetic := .standIn

end Sys2Proof
end

