-- ==== Sys2Proof/Machine/Bits.lean ====
section
/-! DEFINITION. Byte order and bit fields: 20_memory.md R71 to R73, 30_encoding.md R99 and R101. -/

namespace Sys2Proof

/-- `v[7:0]`. -/
def loByte (v : Half) : Byte := v.extractLsb' 0 8

/-- `v[15:8]`. -/
def hiByte (v : Half) : Byte := v.extractLsb' 8 8

/-- `{hi, lo}`, 30_encoding.md R101. -/
def pair (hi lo : Byte) : Half := hi ++ lo

/-- A 32-bit value low byte first, 46_command_dispatch.md R271. -/
def bytes32 (v : BitVec 32) : Bytes :=
  [v.extractLsb' 0 8, v.extractLsb' 8 8, v.extractLsb' 16 8, v.extractLsb' 24 8]

/-- The direction bit of the I2C address byte, 30_encoding.md R99. -/
def Dir.bit : Dir → BitVec 1
  | .write => 0
  | .read => 1

/-- `{I2C_DEV_ADDR[6:0], rw}`, 30_encoding.md R99. PRESUMED (the spec's own general knowledge): the read bit
is bit 0. Log entry 20. -/
def addrByte (a : BitVec 7) (r : Dir) : Byte := a ++ r.bit

/-- The two fields of an I2C address byte. -/
def addrByteFields (v : Byte) : BitVec 7 × Dir :=
  (v.extractLsb' 1 7, if v.getLsbD 0 then .read else .write)

/-- `zext_8` of one bit, 46_command_dispatch.md R263. -/
def bitByte (b : Bool) : Byte := if b then 1 else 0

end Sys2Proof
end

