-- ==== Sys2Proof/WellFormed.lean ====
section
/-! DEFINITION. Which instruction terms stand for a row of the opcode table, under a configuration: the value
a row's operand may not take is checked here, once. -/

namespace Sys2Proof

/-- The checks, one arm per constructor. A buffer's length fits the one length byte of the coded form (the
block's own buffers have at most CAP, so at most 254, bytes: 20_memory.md R62). -/
def Instr.wellFormed (c : Cfg) : Instr → Bool
  | .rxDrop _ | .rxEscaped _ | .rxStart | .rxEnd | .rxEsc => true
  | .rxIgnore b => decide (b ≠ c.frameStart)
  | .rxData b => decide (b ∉ [c.frameStart, c.frameEnd, c.esc])
  | .txStartMark | .txEsc | .txEscaped | .txEndMark => true
  | .txData => decide (c.esc < 0xFF)
  | .req8 | .req16 | .ack8 | .nak8 | .ack16 | .nak16 | .irq16 => true
  | .hdrOther b => decide (b ∉ c.headers)
  | .addrBroadcast => true
  | .addrUnicast a => decide (a ≠ broadcast)
  | .noOp | .getNodeId | .getCommStatus | .getIrqPoll | .getSetOutput | .getVolts | .getCurrent
  | .getPower | .getSetShuntConfig | .cmdProgramAddress | .enumerationRequest => true
  | .cmdUnknown x => decide (x ∉ c.commands)
  | .notify => true
  | .outputClear | .outputSet | .outputRead | .shuntReadConfig | .shuntWriteConfig | .shuntReadCal => true
  | .pollSStart | .pollSPacketReady | .pollSDecode | .pollSRespond | .pollSTxStart | .pollSWaitTx
  | .pollSWaitDrain | .pollSFinish | .pollFgI2cWait => true
  | .i2cPh0 _ | .i2cPh1 _ | .i2cPh2 _ | .i2cPh3 _ | .i2cPh4 _ | .i2cPh5 _ | .i2cPh6 _ | .i2cPh7 _
  | .i2cPh8 _ => true
  | .i2cIllegal p _ => decide (9 ≤ p)
  | .i2cAddrByte a _ => decide (a = c.i2cDevAddr)
  | .rxByte _ | .txReady | .tickRx | .tickArb | .i2cEvent _ | .poll => true
  | .crc8 buf => decide (buf.length ≤ 255)
  | .crc16 _ buf => decide (buf.length ≤ 255)
  | .i2cBegin _ _ _ | .reseed => true
  | .raise r => decide (r ≠ c.irqNone)
  | .programAddress a => decide (a ≠ broadcast)

end Sys2Proof
end

