-- ==== Sys2Proof/Decode.lean ====
section
/-! DEFINITION. The decoder of the block's coded inputs (30_encoding.md R90 to R107), total on any bytes and
rejecting by name, and after it the encoder.

The machine's own dispatch uses the classifiers of this file (`rxClass`, `txAction`, `controlOf`, `commandOf`
and the rest). The coded WORD of an instruction is a code-space number followed by the values the block
examines to select the row: the latches, cursor codes and byte of 30_encoding.md. The code-space numbers 1 to
12, the operation numbers, the code of `fg_cont` and the order of the bytes are the model's own (DESIGN CHOICE, log entry 12): the spec's code spaces
overlap, and it gives the operations no binary code. -/

namespace Sys2Proof

/-! ## Classifiers -/

/-- The ordered tests of 30_encoding.md R91. -/
def rxClass (c : Cfg) (ready : Bool) (st : RxState) (esc : Bool) (b : Byte) : RxClass :=
  if ready = true then .drop
  else if st = .assembling ∧ esc = true then .escaped
  else if b = c.frameStart then .start
  else if st ≠ .assembling then .ignore
  else if b = c.frameEnd then .endMark
  else if b = c.esc then .esc
  else .data

/-- 43_frame_transmitter.md R200: by the transmit state and, while sending, by the next byte. -/
def txAction (c : Cfg) (st : TxState) (p : Byte) : TxAction :=
  match st with
  | .idle => .startMark
  | .sending => if p ≤ c.esc then .esc else .data
  | .escWait => .escaped
  | .done => .endMark

/-- 30_encoding.md R95 and R104: the control byte, compared whole. -/
def controlOf (c : Cfg) (b : Byte) : Control :=
  if b = c.hdrReq8 then .req8
  else if b = c.hdrReq16 then .req16
  else if b = c.hdrAck8 then .ack8
  else if b = c.hdrNak8 then .nak8
  else if b = c.hdrAck16 then .ack16
  else if b = c.hdrNak16 then .nak16
  else if b = c.hdrIrq16 then .irq16
  else .other

/-- 30_encoding.md R98 and R105: the command code, compared whole. -/
def commandOf (c : Cfg) (x : Byte) : Command :=
  if x = c.cmdNop then .noOp
  else if x = c.cmdGetNodeId then .getNodeId
  else if x = c.cmdGetCommStatus then .getCommStatus
  else if x = c.cmdGetIrqPoll then .getIrqPoll
  else if x = c.cmdOutput then .output
  else if x = c.cmdGetVolts then .getVolts
  else if x = c.cmdGetCurrent then .getCurrent
  else if x = c.cmdGetPower then .getPower
  else if x = c.cmdShuntConfig then .shuntConfig
  else if x = c.cmdProgramAddress then .programAddress
  else if x = c.cmdEnumRequest then .enumRequest
  else .unknown

/-- 46_command_dispatch.md R263: `params[1]` of get/set-output. -/
def outputSubOf (b : Byte) : Option OutputSub :=
  if b = 0 then some .clear else if b = 1 then some .set else if b = 2 then some .read else none

/-- 46_command_dispatch.md R267: `params[0]` of get/set-shunt-config. -/
def shuntSubOf (b : Byte) : Option ShuntSub :=
  if b = 0 then some .readConfig else if b = 1 then some .writeConfig
  else if b = 2 then some .readCal else none

/-! ## Cursor codes: 30_encoding.md R103 for the four cursors of its table, the model's own for `fg_cont` -/

def RxState.code : RxState → Byte
  | .idle => 0
  | .assembling => 1
  | .finishing => 2

/-- R107: code 3 reads as `RX_IDLE`. -/
def rxStateOf (b : Byte) : Option RxState :=
  if b = 0 then some .idle else if b = 1 then some .assembling
  else if b = 2 then some .finishing else if b = 3 then some .idle else none

def TxState.code : TxState → Byte
  | .idle => 0
  | .escWait => 1
  | .sending => 2
  | .done => 3

def txStateOf (b : Byte) : Option TxState :=
  if b = 0 then some .idle else if b = 1 then some .escWait
  else if b = 2 then some .sending else if b = 3 then some .done else none

def SessionState.code : SessionState → Byte
  | .start => 0
  | .packetReady => 1
  | .decode => 2
  | .respond => 3
  | .txStart => 4
  | .waitTx => 5
  | .waitDrain => 6
  | .finish => 7

def sessionOf (b : Byte) : Option SessionState :=
  if b = 0 then some .start else if b = 1 then some .packetReady else if b = 2 then some .decode
  else if b = 3 then some .respond else if b = 4 then some .txStart else if b = 5 then some .waitTx
  else if b = 6 then some .waitDrain else if b = 7 then some .finish else none

/-- The code of `fg_cont` in a coded word. R103's table has no row for it: DESIGN CHOICE, log entry 12. -/
def FgCont.code : FgCont → Byte
  | .fgNone => 0
  | .fgI2cWait => 1

/-- The inverse of `FgCont.code`. DESIGN CHOICE, log entry 12. -/
def fgContOf (b : Byte) : Option FgCont :=
  if b = 0 then some .fgNone else if b = 1 then some .fgI2cWait else none

def bitOf (b : Byte) : Option Bool :=
  if b = 0 then some false else if b = 1 then some true else none

def dirOf (b : Byte) : Option Dir :=
  if b = 0 then some .write else if b = 1 then some .read else none

/-! ## The rows a class stands for -/

def RxClass.instr (b : Byte) : RxClass → Instr
  | .drop => .rxDrop b
  | .escaped => .rxEscaped b
  | .start => .rxStart
  | .ignore => .rxIgnore b
  | .endMark => .rxEnd
  | .esc => .rxEsc
  | .data => .rxData b

def TxAction.instr : TxAction → Instr
  | .startMark => .txStartMark
  | .data => .txData
  | .esc => .txEsc
  | .escaped => .txEscaped
  | .endMark => .txEndMark

def Control.instr (b : Byte) : Control → Instr
  | .req8 => .req8
  | .req16 => .req16
  | .ack8 => .ack8
  | .nak8 => .nak8
  | .ack16 => .ack16
  | .nak16 => .nak16
  | .irq16 => .irq16
  | .other => .hdrOther b

def Command.instr (x : Byte) : Command → Instr
  | .noOp => .noOp
  | .getNodeId => .getNodeId
  | .getCommStatus => .getCommStatus
  | .getIrqPoll => .getIrqPoll
  | .output => .getSetOutput
  | .getVolts => .getVolts
  | .getCurrent => .getCurrent
  | .getPower => .getPower
  | .shuntConfig => .getSetShuntConfig
  | .programAddress => .cmdProgramAddress
  | .enumRequest => .enumerationRequest
  | .unknown => .cmdUnknown x

def OutputSub.instr : OutputSub → Instr
  | .clear => .outputClear
  | .set => .outputSet
  | .read => .outputRead

def ShuntSub.instr : ShuntSub → Instr
  | .readConfig => .shuntReadConfig
  | .writeConfig => .shuntWriteConfig
  | .readCal => .shuntReadCal

/-- The row of a `POLL`, 42_session_fsm.md R170. -/
def pollInstr (f : FgCont) (st : SessionState) : Instr :=
  match f, st with
  | .fgI2cWait, _ => .pollFgI2cWait
  | .fgNone, .start => .pollSStart
  | .fgNone, .packetReady => .pollSPacketReady
  | .fgNone, .decode => .pollSDecode
  | .fgNone, .respond => .pollSRespond
  | .fgNone, .txStart => .pollSTxStart
  | .fgNone, .waitTx => .pollSWaitTx
  | .fgNone, .waitDrain => .pollSWaitDrain
  | .fgNone, .finish => .pollSFinish

/-- The row of an `I2C_EVENT`, 44_i2c_engine.md R215 and R227. -/
def phaseInstr (p : BitVec 4) (d : Byte) : Instr :=
  if p = 0 then .i2cPh0 d else if p = 1 then .i2cPh1 d else if p = 2 then .i2cPh2 d
  else if p = 3 then .i2cPh3 d else if p = 4 then .i2cPh4 d else if p = 5 then .i2cPh5 d
  else if p = 6 then .i2cPh6 d else if p = 7 then .i2cPh7 d else if p = 8 then .i2cPh8 d
  else .i2cIllegal p d

/-! ## The decoder -/

/-- Why a coded word is not an instruction. -/
inductive DecodeError where
  /-- The bytes end before the word does. -/
  | truncated
  /-- No code space has this number. -/
  | badSpace (n : Byte)
  /-- A one-bit latch or flag is coded neither 0 nor 1. -/
  | badBit (b : Byte)
  /-- A cursor code no cursor value has (30_encoding.md R103). -/
  | badCursor (b : Byte)
  /-- A sub-command code outside 0 to 2 (46_command_dispatch.md R263, R267). -/
  | badSubCommand (b : Byte)
  /-- A node-sent command byte other than NOTIFY_CMD (30_encoding.md R110). -/
  | badNodeCommand (b : Byte)
  /-- An I2C address byte of another device (30_encoding.md R99). -/
  | foreignDevice (b : Byte)
  /-- No operation has this number. -/
  | badOperation (n : Byte)
  /-- The reason "none" for Raise (45_arbitrator.md R243), the address 255 for ProgramAddress
  (46_command_dispatch.md R268). -/
  | badOperand (b : Byte)
deriving DecidableEq, Repr

/-- The answer of the decoder: an instruction with the bytes after it, or a named rejection. -/
inductive Decoded where
  | instr (i : Instr) (rest : Bytes)
  | bad (e : DecodeError)
deriving DecidableEq, Repr

/-- Space 1, a received byte with the latches that gate it: `[pkt_ready, rx_state, rx_esc, b]`. -/
def decodeRx (c : Cfg) : Bytes → Decoded
  | r :: st :: e :: b :: rest =>
    match bitOf r, rxStateOf st, bitOf e with
    | some ready, some state, some esc => .instr ((rxClass c ready state esc b).instr b) rest
    | none, _, _ => .bad (.badBit r)
    | _, none, _ => .bad (.badCursor st)
    | _, _, none => .bad (.badBit e)
  | _ => .bad .truncated

/-- Space 2, a transmit event: `[tx_state, next byte]`. -/
def decodeTx (c : Cfg) : Bytes → Decoded
  | st :: p :: rest =>
    match txStateOf st with
    | some state => .instr (txAction c state p).instr rest
    | none => .bad (.badCursor st)
  | _ => .bad .truncated

/-- Space 3, a control byte. -/
def decodeControl (c : Cfg) : Bytes → Decoded
  | b :: rest => .instr ((controlOf c b).instr b) rest
  | [] => .bad .truncated

/-- Space 4, an address byte. -/
def decodeAddress : Bytes → Decoded
  | a :: rest => .instr (if a = broadcast then .addrBroadcast else .addrUnicast a) rest
  | [] => .bad .truncated

/-- Space 5, a command code received. -/
def decodeCommand (c : Cfg) : Bytes → Decoded
  | x :: rest => .instr ((commandOf c x).instr x) rest
  | [] => .bad .truncated

/-- Space 6, the command byte of a packet the node sends on its own. -/
def decodeNodeCommand (c : Cfg) : Bytes → Decoded
  | x :: rest => if x = c.notifyCmd then .instr .notify rest else .bad (.badNodeCommand x)
  | [] => .bad .truncated

/-- Space 7, the sub-command byte of get/set-output. -/
def decodeOutputSub : Bytes → Decoded
  | b :: rest =>
    match outputSubOf b with
    | some k => .instr k.instr rest
    | none => .bad (.badSubCommand b)
  | [] => .bad .truncated

/-- Space 8, the sub-command byte of get/set-shunt-config. -/
def decodeShuntSub : Bytes → Decoded
  | b :: rest =>
    match shuntSubOf b with
    | some k => .instr k.instr rest
    | none => .bad (.badSubCommand b)
  | [] => .bad .truncated

/-- Space 9, the foreground's cursors: `[fg_cont, session_state]`. -/
def decodeSession : Bytes → Decoded
  | f :: st :: rest =>
    match fgContOf f, sessionOf st with
    | some fg, some state => .instr (pollInstr fg state) rest
    | none, _ => .bad (.badBit f)
    | _, none => .bad (.badCursor st)
  | _ => .bad .truncated

/-- Space 10, the phase cursor with the bus data register: `[i2c_phase, d]`. -/
def decodePhase : Bytes → Decoded
  | p :: d :: rest =>
    if p < 16 then .instr (phaseInstr (p.setWidth 4) d) rest else .bad (.badCursor p)
  | _ => .bad .truncated

/-- Space 11, an I2C address byte on the bus. -/
def decodeBusAddress (c : Cfg) : Bytes → Decoded
  | v :: rest =>
    if (addrByteFields v).1 = c.i2cDevAddr then
      .instr (.i2cAddrByte (addrByteFields v).1 (addrByteFields v).2) rest
    else .bad (.foreignDevice v)
  | [] => .bad .truncated

/-- A buffer operand: one length byte, then the bytes. -/
def takeBuffer (k : Bytes → Bytes → Decoded) : Bytes → Decoded
  | n :: rest =>
    if n.toNat ≤ rest.length then k (rest.take n.toNat) (rest.drop n.toNat) else .bad .truncated
  | [] => .bad .truncated

/-- Space 12, an operation: its number, then its operands. -/
def decodeOperation (c : Cfg) : Bytes → Decoded
  | [] => .bad .truncated
  | op :: args =>
    match op.toNat, args with
    | 0, b :: rest => .instr (.rxByte b) rest
    | 1, rest => .instr .txReady rest
    | 2, rest => .instr .tickRx rest
    | 3, rest => .instr .tickArb rest
    | 4, d :: rest => .instr (.i2cEvent d) rest
    | 5, rest => .instr .poll rest
    | 6, rest => takeBuffer (fun buf more => .instr (.crc8 buf) more) rest
    | 7, lo :: hi :: rest => takeBuffer (fun buf more => .instr (.crc16 (pair hi lo) buf) more) rest
    | 8, w :: reg :: lo :: hi :: rest =>
      match dirOf w with
      | some dir => .instr (.i2cBegin dir reg (pair hi lo)) rest
      | none => .bad (.badBit w)
    | 9, rest => .instr .reseed rest
    | 10, r :: rest => if r = c.irqNone then .bad (.badOperand r) else .instr (.raise r) rest
    | 11, a :: rest =>
      if a = broadcast then .bad (.badOperand a) else .instr (.programAddress a) rest
    | n, _ => if n < 12 then .bad .truncated else .bad (.badOperation op)

/-- The decoder: the code space, then the space's own decoder. -/
def decode (c : Cfg) : Bytes → Decoded
  | [] => .bad .truncated
  | space :: word =>
    match space.toNat with
    | 1 => decodeRx c word
    | 2 => decodeTx c word
    | 3 => decodeControl c word
    | 4 => decodeAddress word
    | 5 => decodeCommand c word
    | 6 => decodeNodeCommand c word
    | 7 => decodeOutputSub word
    | 8 => decodeShuntSub word
    | 9 => decodeSession word
    | 10 => decodePhase word
    | 11 => decodeBusAddress c word
    | 12 => decodeOperation c word
    | _ => .bad (.badSpace space)

/-! ## The encoder -/

/-- A buffer operand, as `takeBuffer` reads it. -/
def bufferCode (buf : Bytes) : Bytes := BitVec.ofNat 8 buf.length :: buf

/-- The coded word of an instruction: the values that select its row (opcode table, column "encoding"), in
the layout of the decoders above. Where a row is selected by a range of values, one of them. -/
def encode (c : Cfg) : Instr → Bytes
  | .rxDrop b => [1, 1, 0, 0, b]
  | .rxEscaped b => [1, 0, 1, 1, b]
  | .rxStart => [1, 0, 0, 0, c.frameStart]
  | .rxIgnore b => [1, 0, 0, 0, b]
  | .rxEnd => [1, 0, 1, 0, c.frameEnd]
  | .rxEsc => [1, 0, 1, 0, c.esc]
  | .rxData b => [1, 0, 1, 0, b]
  | .txStartMark => [2, 0, 0]
  | .txData => [2, 2, 0xFF]
  | .txEsc => [2, 2, c.esc]
  | .txEscaped => [2, 1, 0]
  | .txEndMark => [2, 3, 0]
  | .req8 => [3, c.hdrReq8]
  | .req16 => [3, c.hdrReq16]
  | .ack8 => [3, c.hdrAck8]
  | .nak8 => [3, c.hdrNak8]
  | .ack16 => [3, c.hdrAck16]
  | .nak16 => [3, c.hdrNak16]
  | .irq16 => [3, c.hdrIrq16]
  | .hdrOther b => [3, b]
  | .addrBroadcast => [4, broadcast]
  | .addrUnicast a => [4, a]
  | .noOp => [5, c.cmdNop]
  | .getNodeId => [5, c.cmdGetNodeId]
  | .getCommStatus => [5, c.cmdGetCommStatus]
  | .getIrqPoll => [5, c.cmdGetIrqPoll]
  | .getSetOutput => [5, c.cmdOutput]
  | .getVolts => [5, c.cmdGetVolts]
  | .getCurrent => [5, c.cmdGetCurrent]
  | .getPower => [5, c.cmdGetPower]
  | .getSetShuntConfig => [5, c.cmdShuntConfig]
  | .cmdProgramAddress => [5, c.cmdProgramAddress]
  | .enumerationRequest => [5, c.cmdEnumRequest]
  | .cmdUnknown x => [5, x]
  | .notify => [6, c.notifyCmd]
  | .outputClear => [7, 0]
  | .outputSet => [7, 1]
  | .outputRead => [7, 2]
  | .shuntReadConfig => [8, 0]
  | .shuntWriteConfig => [8, 1]
  | .shuntReadCal => [8, 2]
  | .pollSStart => [9, 0, 0]
  | .pollSPacketReady => [9, 0, 1]
  | .pollSDecode => [9, 0, 2]
  | .pollSRespond => [9, 0, 3]
  | .pollSTxStart => [9, 0, 4]
  | .pollSWaitTx => [9, 0, 5]
  | .pollSWaitDrain => [9, 0, 6]
  | .pollSFinish => [9, 0, 7]
  | .pollFgI2cWait => [9, 1, 2]
  | .i2cPh0 d => [10, 0, d]
  | .i2cPh1 d => [10, 1, d]
  | .i2cPh2 d => [10, 2, d]
  | .i2cPh3 d => [10, 3, d]
  | .i2cPh4 d => [10, 4, d]
  | .i2cPh5 d => [10, 5, d]
  | .i2cPh6 d => [10, 6, d]
  | .i2cPh7 d => [10, 7, d]
  | .i2cPh8 d => [10, 8, d]
  | .i2cIllegal p d => [10, p.setWidth 8, d]
  | .i2cAddrByte a r => [11, addrByte a r]
  | .rxByte b => [12, 0, b]
  | .txReady => [12, 1]
  | .tickRx => [12, 2]
  | .tickArb => [12, 3]
  | .i2cEvent d => [12, 4, d]
  | .poll => [12, 5]
  | .crc8 buf => 12 :: 6 :: bufferCode buf
  | .crc16 seed buf => 12 :: 7 :: loByte seed :: hiByte seed :: bufferCode buf
  | .i2cBegin dir reg val => [12, 8, dir.bit.setWidth 8, reg, loByte val, hiByte val]
  | .reseed => [12, 9]
  | .raise r => [12, 10, r]
  | .programAddress a => [12, 11, a]

/-! ## The opcode table's bare words -/

/-- A bare table word with its code space. The table's code spaces overlap and its words carry no space
number, so a bare byte is read in the first of: the address byte 255 (30_encoding.md R95 uses no such control
byte under T0), the control bytes of T0, the session cursor under the table's mask 0x7. DESIGN CHOICE, log
entry 13. -/
def tableWord (w : Nat) : Bytes :=
  if w = 255 then [4, 255]
  else if controlOf T0 (BitVec.ofNat 8 w) ≠ .other then [3, BitVec.ofNat 8 w]
  else [9, 0, BitVec.ofNat 8 (w % 8)]

/-- The instruction the decoder reads from a table word of one byte, under T0. Log entry 13. -/
def decodeTableWord (nbits w : Nat) : Option Instr :=
  if nbits ≤ 8 ∧ w < 256 then
    match decode T0 (tableWord w) with
    | .instr i [] => some i
    | _ => none
  else none

end Sys2Proof
end

