-- ==== Sys2Proof/Machine/Crc.lean ====
section
/-! DEFINITION. The two CRC engines as pure functions, 40_crc.md R130 to R136. They emit no `WdtKick` (R137
allows it; DESIGN CHOICE, log entry 6). -/

namespace Sys2Proof.Machine

/-- One of the eight iterations of 40_crc.md R131 and R132. -/
def crcShift {w : Nat} (dir : CrcDir) (poly crc : BitVec w) : BitVec w :=
  match dir with
  | .msbFirst => if crc.msb then (crc <<< 1) ^^^ poly else crc <<< 1
  | .lsbFirst => if crc.getLsbD 0 then (crc >>> 1) ^^^ poly else crc >>> 1

/-- `n` iterations. -/
def crcShifts {w : Nat} (dir : CrcDir) (poly : BitVec w) : Nat → BitVec w → BitVec w
  | 0, crc => crc
  | n + 1, crc => crcShifts dir poly n (crcShift dir poly crc)

/-- The data byte enters the end of the register that shifts out, R131 and R132. -/
def crcEnter {w : Nat} (dir : CrcDir) (crc : BitVec w) (b : Byte) : BitVec w :=
  match dir with
  | .msbFirst => crc ^^^ (b.setWidth w <<< (w - 8))
  | .lsbFirst => crc ^^^ b.setWidth w

/-- `ByteStep`, R131 and R132. -/
def crcByte {w : Nat} (dir : CrcDir) (poly crc : BitVec w) (b : Byte) : BitVec w :=
  crcShifts dir poly 8 (crcEnter dir crc b)

/-- `CRC8(buf)`, R133. -/
def crc8 (c : Cfg) (buf : Bytes) : Byte :=
  buf.foldl (crcByte c.crc8Dir c.poly8) c.crc8Init

/-- `CRC16(seed, buf)`, R134. -/
def crc16 (c : Cfg) (seed : Half) (buf : Bytes) : Half :=
  buf.foldl (crcByte c.crc16Dir c.poly16) seed

end Sys2Proof.Machine
end

