-- ==== Sys2Proof/Machine/Arithmetic.lean ====
section
/-! DEFINITION. `CalConst`, `TelExp` and `TelScale` (00_scope.md R6, 93_implementation_defined.md U17). The source
gives no formula: under `.free n` they are the open functions of Config, constrained as U17 says and by nothing
else; under `.standIn` they are T0's stand-ins. Log entry 3. -/

namespace Sys2Proof.Machine

/-- `CalConst(v, i)`. U17 asks only that it is not 0 for (50, 100): the open function is taken as it is
wherever it keeps to that, so the open choices range over exactly the functions U17 allows. -/
def calConst (c : Cfg) (v : Byte) (i : Half) : Half :=
  match c.arithmetic with
  | .standIn => v.setWidth 16 * 256 + i
  | .free n =>
    if v = 50 ∧ i = 100 ∧ Config.openCalConst n v i = 0 then 1 else Config.openCalConst n v i

/-- `TelExp(k)`. -/
def telExp (c : Cfg) (k : Quantity) : Byte :=
  match c.arithmetic with
  | .standIn => 0
  | .free n => Config.openTelExp n k

/-- `TelScale(k, v, i)`; power's is 25 times current's, in 32 bits. -/
def telScale (c : Cfg) (k : Quantity) (v : Byte) (i : Half) : BitVec 32 :=
  match k, c.arithmetic with
  | .volts, .standIn => 1
  | .volts, .free n => Config.openTelScaleVolts n v i
  | .current, .standIn => 1
  | .current, .free n => Config.openTelScaleCurrent n v i
  | .power, .standIn => 25 * 1
  | .power, .free n => 25 * Config.openTelScaleCurrent n v i

end Sys2Proof.Machine
end

