-- ==== Sys2Proof/Machine/Memory.lean ====
section
/-! DEFINITION. The two byte-addressed spaces held as data, PKT and STORE (20_memory.md R60), as canonical lists
of cells: addresses strictly rising, no cell equal to what an unlisted address reads as. -/

namespace Sys2Proof.Machine

/-- The address spaces of 20_memory.md R60 whose bytes the state holds; I2CREG is outside (R67, log entry 25). -/
inductive Space where
  | pkt | store
deriving DecidableEq, Repr

/-- What an unlisted address reads as. DESIGN CHOICE, unsafe: PKT 0x00 (10_state.md R21 leaves every byte
unspecified, log entry 8); STORE 0xFF, erased (20_memory.md R64, R66, log entry 9). -/
def Space.unlisted : Space → Byte
  | .pkt => 0x00
  | .store => 0xFF

abbrev Memory := List Host.Cell

/-- One byte. -/
def Memory.read (sp : Space) : Memory → Nat → Byte
  | [], _ => sp.unlisted
  | (k, v) :: m, a => if k = a then v else Memory.read sp m a

/-- A cell put at its place in a list that does not hold its address. -/
def Memory.insert (a : Nat) (v : Byte) : Memory → Memory
  | [] => [(a, v)]
  | (k, w) :: m => if a < k then (a, v) :: (k, w) :: m else (k, w) :: Memory.insert a v m

/-- Write one byte and keep the canonical form: a byte equal to what an unlisted address reads as is not listed. -/
def Memory.write (sp : Space) (m : Memory) (a : Nat) (v : Byte) : Memory :=
  let others := m.filter fun c => decide (c.1 ≠ a)
  if v = sp.unlisted then others else Memory.insert a v others

/-- The bytes `vs` from address `a` on. -/
def Memory.writeAll (sp : Space) (m : Memory) (a : Nat) : Bytes → Memory
  | [] => m
  | v :: vs => Memory.writeAll sp (Memory.write sp m a v) (a + 1) vs

/-- The canonical form. -/
abbrev Memory.wf (sp : Space) (m : Memory) : Prop :=
  m.Pairwise (fun c d => c.1 < d.1) ∧ ∀ c ∈ m, c.2 ≠ sp.unlisted

end Sys2Proof.Machine
end

