-- ==== Sys2Proof/Machine/Boot.lean ====
section
/-! DEFINITION. What power-up reads from the persistent store: 70_reset_and_hazards.md R313 and R314. -/

namespace Sys2Proof.Machine

/-- The signature bytes of the stored record, R313. -/
def storedSignature (c : Cfg) (store : Memory) : Half :=
  pair (store.read .store (c.cfgOffset + 1)) (store.read .store c.cfgOffset)

/-- The two ratings, R313: from the record if its signature is valid, else the defaults. -/
def bootRatings (c : Cfg) (store : Memory) : Byte × Half :=
  if storedSignature c store = c.cfgSignature then
    (store.read .store (c.cfgOffset + 2),
     pair (store.read .store (c.cfgOffset + 5)) (store.read .store (c.cfgOffset + 4)))
  else (c.defaultVrating, c.defaultIrating)

/-- The node address, R314: the stored byte, or `DEFAULT_ADDR` when it is erased (all-ones). -/
def bootAddress (c : Cfg) (store : Memory) : Byte :=
  if store.read .store c.addrOffset = 0xFF then c.defaultAddr else store.read .store c.addrOffset

/-- The low five bits of an address: the holdoff seed of 45_arbitrator.md R241. -/
def holdoffSeed (a : Byte) : BitVec 5 := a.setWidth 5

end Sys2Proof.Machine
end

