-- ==== Sys2Proof/Machine/State.lean ====
section
/-! DEFINITION. The state of the block (10_state.md R20 to R59), the environment it acts on, and power-up
(70_reset_and_hazards.md R310 to R315). INVENTORY.md lists every field with its rule. -/

namespace Sys2Proof.Machine

/-- The raw register-bus primitives, 20_memory.md R69. -/
inductive BusAction where
  | start | restart | stop | send (b : Byte) | rxEnable | ack
deriving DecidableEq, Repr

/-- The output actions, 00_scope.md R11 and R12. -/
inductive Output where
  | uartWrite (b : Byte)
  | bus (a : BusAction)
  | storeWrite (off : Nat) (v : Byte)
  | wdtKick
  | activityPulse
  | outPin (ch : Byte) (level : Bool)
deriving DecidableEq, Repr

/-- The operations the environment and the foreground can fire, 00_scope.md R9. -/
inductive Event where
  | rxByte (b : Byte)
  | txReady
  | tick
  | i2cEvent (d : Byte)
  | poll
deriving DecidableEq, Repr

/-- One atomic step's input: the operation, and the two input levels while it runs (10_state.md R58). -/
structure Input where
  event : Event
  addrProgEn : Bool
  uartTxEmpty : Bool
deriving DecidableEq, Repr

/-- The state. Field names follow the spec's register names. -/
structure State where
  /-- 00_scope.md R6; no operation writes it (20_memory.md R88). Log entry 1. -/
  cfg : Cfg
  /-- R21. -/
  pkt : Memory
  /-- The persistent store, 20_memory.md R66. Log entry 9. -/
  store : Memory
  /-- R22. Log entry 24. -/
  crc8Reg : Byte
  /-- R22. Log entry 24. -/
  crc16Reg : Half
  /-- R23. -/
  i2cVal : Half
  /-- R24. -/
  nodeAddr : Byte
  /-- R25. -/
  cfgVrating : Byte
  /-- R25. -/
  cfgIrating : Half
  /-- R25. -/
  cfgCal : Half
  /-- R30. -/
  rxState : RxState
  /-- R31. -/
  rxEsc : Bool
  /-- R32. -/
  rxIdx : Nat
  /-- R33. -/
  rxTimeout : Nat
  /-- R34. -/
  pktReady : Bool
  /-- R35. -/
  txState : TxState
  /-- R36. -/
  txIdx : Nat
  /-- R37. -/
  txRem : Nat
  /-- R38. -/
  txBusy : Bool
  /-- R39. -/
  txIrqEn : Bool
  /-- R41. -/
  sessionState : SessionState
  /-- R42. -/
  crc16Mode : Bool
  /-- R43. -/
  txLen : Nat
  /-- R44. -/
  lastError : Byte
  /-- R45. -/
  crcErrCount : Byte
  /-- R46. -/
  timeoutCount : Byte
  /-- R47. -/
  fgCont : FgCont
  /-- R48. -/
  i2cPhase : BitVec 4
  /-- R49. -/
  i2cReg : Byte
  /-- R50. -/
  i2cDir : Dir
  /-- R51. -/
  i2cBusy : Bool
  /-- R52. -/
  i2cErr : Bool
  /-- R53. -/
  irqReason : Byte
  /-- R54. -/
  irqRaised : Bool
  /-- R55. -/
  irqHoldoff : BitVec 5
  /-- R56. -/
  irqTimer : BitVec 5
  /-- R57. -/
  lineDriverEn : Bool
  /-- R57, `out[0]`. -/
  out0 : Bool
  /-- R57, `out[1]`. -/
  out1 : Bool
  /-- Input level, R58. -/
  addrProgEn : Bool
  /-- Input level, R58. -/
  uartTxEmpty : Bool
  /-- The inputs still to come, first one next: the environment's choice (R58). The model's own field, log entry 5. -/
  script : List Input
  /-- The output actions so far, in order of occurrence (00_scope.md R12). -/
  trace : List Output
deriving DecidableEq, Repr

/-- Why the machine stops with a fault. -/
inductive Fault where
  /-- A packet-buffer index outside 0 to CAP-1 (20_memory.md R62: it never occurs, and a model that meets one
  does not wrap). Raised by every access to `pkt`. Safe: the block reaches no such access. Log entry 10. -/
  | pktIndexOutOfRange (i : Nat)
deriving DecidableEq, Repr

/-- Why an instruction or a state is refused. -/
inductive Refusal where
  /-- Raised by an arm of the dispatch that has no meaning yet. Safe. -/
  | notModelled (mnemonic : String)
  /-- Raised by a row's meaning in a state whose condition does not select the row (30_encoding.md R90): the
  block runs another row there. Safe: no step of the machine raises it. Log entry 11. -/
  | notSelected (mnemonic : String)
  /-- Raised by I2C_BEGIN while a transaction is in flight (44_i2c_engine.md R231, U10: a refused call). Safe.
  Log entry 16. -/
  | i2cBeginWhileBusy
  /-- Raised by ProgramAddress of 255, outside its operand range (46_command_dispatch.md R268). Safe. Log entry 19. -/
  | programAddressBroadcast
  /-- Raised by the end of a foreground hold when `pkt[2]` names no command that waits for the I2C engine
  (42_session_fsm.md R181). Safe: no run reaches it. Log entry 15. -/
  | noSuspendedHandler
  /-- Raised by the step of a configuration that breaks 00_scope.md R7, which refuses it. Safe. Log entry 2. -/
  | illegalConfiguration
  /-- Raised by the step if the fetched word is no instruction. Safe: no step raises it. Log entry 11. -/
  | undecodable
deriving DecidableEq, Repr

/-- The answer of an operation of the machine. -/
abbrev Result := Host.Outcome State Fault Refusal

/-- The register contents the spec leaves unspecified after reset (70_reset_and_hazards.md R311, U12). -/
structure Unspecified where
  pkt : Memory
  crc8Reg : Byte
  crc16Reg : Half
  i2cVal : Half
  i2cReg : Byte
  i2cDir : Dir
  out0 : Bool
  out1 : Bool
deriving DecidableEq, Repr

/-- Power-up, 70_reset_and_hazards.md R310 to R315: the state built from a configuration, the content of the
persistent store, and any values of the unspecified registers. No store write, no bus action (R313). -/
def State.powerUp (c : Cfg) (store : Memory) (u : Unspecified) : State where
  cfg := c
  pkt := u.pkt
  store := store
  crc8Reg := u.crc8Reg
  crc16Reg := u.crc16Reg
  i2cVal := u.i2cVal
  nodeAddr := bootAddress c store
  cfgVrating := (bootRatings c store).1
  cfgIrating := (bootRatings c store).2
  cfgCal := calConst c (bootRatings c store).1 (bootRatings c store).2
  rxState := .idle
  rxEsc := false
  rxIdx := 0
  rxTimeout := 0
  pktReady := false
  txState := .idle
  txIdx := 0
  txRem := 0
  txBusy := false
  txIrqEn := false
  sessionState := .start
  crc16Mode := false
  txLen := 0
  lastError := c.errNone
  crcErrCount := 0
  timeoutCount := 0
  fgCont := .fgNone
  i2cPhase := 0
  i2cReg := u.i2cReg
  i2cDir := u.i2cDir
  i2cBusy := false
  i2cErr := false
  irqReason := c.irqAtBoot
  irqRaised := true
  irqHoldoff := holdoffSeed (bootAddress c store)
  irqTimer := holdoffSeed (bootAddress c store)
  lineDriverEn := false
  out0 := u.out0
  out1 := u.out1
  addrProgEn := false
  uartTxEmpty := true
  script := []
  trace := []

/-- The values the model names for the unspecified registers: all zero. DESIGN CHOICE, unsafe: log entries 7 and 8. -/
def Unspecified.zero : Unspecified where
  pkt := []
  crc8Reg := 0
  crc16Reg := 0
  i2cVal := 0
  i2cReg := 0
  i2cDir := .write
  out0 := false
  out1 := false

/-- The machine right after reset: power-up under T0 with an erased store. DESIGN CHOICE, unsafe: the spec fixes
neither (log entries 1, 7, 8, 9, 28). -/
def State.reset : State := State.powerUp T0 [] Unspecified.zero

end Sys2Proof.Machine
end

