-- ==== Sys2Proof/Machine/Ops.lean ====
section
/-! DEFINITION. The named operations over the packet buffer, the store, the output trace and the registers that the
meanings share, the error entry and its return among them. -/

namespace Sys2Proof.Machine

/-! ## Packet buffer and store -/

/-- The byte the buffer holds at an index. -/
def State.pktByte (s : State) (i : Nat) : Byte := s.pkt.read .pkt i

/-- The byte the store holds at an offset. -/
def State.storeByte (s : State) (i : Nat) : Byte := s.store.read .store i

/-- `pkt[i] <- v` for an index already known to be below CAP. -/
def State.putPkt (s : State) (i : Nat) (v : Byte) : State :=
  { s with pkt := s.pkt.write .pkt i v }

/-- `pkt[i]`, with the bound of 20_memory.md R62. -/
def readPkt (s : State) (i : Nat) (k : Byte → Result) : Result :=
  if i < s.cfg.cap then k (s.pktByte i) else .fault (.pktIndexOutOfRange i)

/-- `pkt[i], pkt[i+1], … <- vs`, with the bound of R62. -/
def writePkt (s : State) (i : Nat) (vs : Bytes) (k : State → Result) : Result :=
  if i + vs.length ≤ s.cfg.cap then k { s with pkt := s.pkt.writeAll .pkt i vs }
  else .fault (.pktIndexOutOfRange (i + vs.length - 1))

/-- The bytes `pkt[0 .. n-1]`. -/
def State.pktBytes (s : State) (n : Nat) : Bytes := (List.range n).map s.pktByte

/-- `pkt[0 .. n-1]` as an operand, with the bound of R62. -/
def readSlice (s : State) (n : Nat) (k : Bytes → Result) : Result :=
  if n ≤ s.cfg.cap then k (s.pktBytes n) else .fault (.pktIndexOutOfRange (n - 1))

/-! ## Output actions, 00_scope.md R11 and R12 -/

/-- An output action, recorded after those before it. -/
def emit (o : Output) (s : State) : State := { s with trace := s.trace ++ [o] }

/-- `StoreWrite(off, v)`, 20_memory.md R66: complete at once. -/
def storeWrite (off : Nat) (v : Byte) (s : State) : State :=
  emit (.storeWrite off v) { s with store := s.store.write .store off v }

/-! ## Selection -/

/-- A row's meaning under the condition that selects the row (30_encoding.md R90). Log entry 11. -/
def onlyIf (mnemonic : String) (selected : Prop) [Decidable selected] (r : Result) : Result :=
  if selected then r else .refused (.notSelected mnemonic)

/-- The foreground is at a session state and holds no handler, 42_session_fsm.md R170. -/
abbrev State.polls (s : State) (st : SessionState) : Prop :=
  s.fgCont = .fgNone ∧ s.sessionState = st

/-! ## The error entry and the return -/

/-- `abandon`, 42_session_fsm.md R172: the block's entry on an error (60_exceptions.md R293). It saves nothing
and sends control to `S_FINISH`. -/
def abandon (s : State) : State := { s with sessionState := .finish }

/-- The single return point, 42_session_fsm.md R180 and 60_exceptions.md R295. -/
def returnToStart (s : State) : State :=
  { s with pktReady := false, sessionState := .start }

/-! ## CRC engines with their running registers, 10_state.md R22 -/

/-- `CRC8(buf)`: the result stands in `crc8_reg`. -/
def runCrc8 (buf : Bytes) (s : State) : State := { s with crc8Reg := crc8 s.cfg buf }

/-- `CRC16(seed, buf)`: the result stands in `crc16_reg`. -/
def runCrc16 (seed : Half) (buf : Bytes) (s : State) : State :=
  { s with crc16Reg := crc16 s.cfg seed buf }

/-! ## Receiver -/

/-- `Append(b)`, 41_frame_receiver.md R158. -/
def append (b : Byte) (s : State) : State :=
  let stored := if s.rxIdx < s.cfg.cap then s.putPkt s.rxIdx b else s
  if s.rxIdx ≤ s.cfg.cap then { stored with rxIdx := s.rxIdx + 1 } else stored

/-! ## Arbitrator -/

/-- `Reseed()`, 45_arbitrator.md R242. -/
def reseedHoldoff (s : State) : State :=
  let s1 := runCrc8 [s.irqHoldoff.setWidth 8] s
  { s1 with irqHoldoff := s1.crc8Reg.setWidth 5, irqTimer := s1.crc8Reg.setWidth 5 }

/-- `Raise(r)`, 45_arbitrator.md R243. -/
def raiseReason (r : Byte) (s : State) : State :=
  { s with irqReason := r, irqRaised := true, irqTimer := s.irqHoldoff }

/-- The attempt condition less the foreground's own place, 45_arbitrator.md R244. -/
abbrev State.attemptDue (s : State) : Prop :=
  s.pktReady = false ∧ s.irqRaised = true ∧ s.irqTimer = 0 ∧ s.addrProgEn = false

/-- The notification of 42_session_fsm.md R173. -/
def sendNotification (s : State) : Result :=
  writePkt s 0 [s.cfg.hdrIrq16, s.nodeAddr, s.cfg.notifyCmd] fun s1 =>
    .next { reseedHoldoff { s1 with txLen := 5, crc16Mode := true } with sessionState := .txStart }

/-! ## I2C engine -/

/-- The writes of `I2C_BEGIN`, 44_i2c_engine.md R216. -/
def i2cStart (dir : Dir) (reg : Byte) (val : Half) (s : State) : State :=
  emit (.bus .start)
    { s with
      i2cDir := dir
      i2cReg := reg
      i2cVal := match dir with
        | .write => val
        | .read => s.i2cVal
      i2cErr := false
      i2cPhase := 0
      i2cBusy := true }

/-- `I2C_BEGIN` with its precondition, 44_i2c_engine.md R216 and R231. -/
def beginTransaction (dir : Dir) (reg : Byte) (val : Half) (s : State) (k : State → Result) : Result :=
  if s.i2cBusy = true then .refused .i2cBeginWhileBusy else k (i2cStart dir reg val s)

/-- A bus action of a phase, and the cursor's next value. -/
def busStep (a : BusAction) (next : BitVec 4) (s : State) : State :=
  emit (.bus a) { s with i2cPhase := next }

/-- The last phase of a transaction: stop, not busy, cursor back to PH0 (R222 for a write, R226 for a read). -/
def busDone (s : State) : State :=
  emit (.bus .stop) { s with i2cBusy := false, i2cPhase := 0 }

/-! ## Address programming -/

/-- `ProgramAddress(a)`, 46_command_dispatch.md R268. -/
def assignAddress (a : Byte) (s : State) : State :=
  storeWrite s.cfg.addrOffset a { s with nodeAddr := a }

end Sys2Proof.Machine
end

