-- ==== Sys2Proof/Machine/Operands.lean ====
section
/-! DEFINITION. The operand forms of a packet: overhead, parameter length, parameter view, and the address arms of
42_session_fsm.md R175. -/

namespace Sys2Proof.Machine

/-- `OVH8`, 30_encoding.md R94. -/
def ovh8 : Nat := 4

/-- `OVH16`, 30_encoding.md R94. -/
def ovh16 : Nat := 5

/-- The overhead of the exchange in flight, 30_encoding.md R97. -/
def State.overhead (s : State) : Nat := if s.crc16Mode = true then ovh16 else ovh8

/-- `param_len`, 30_encoding.md R97. -/
def State.paramLen (s : State) : Nat := s.rxIdx - s.overhead

/-- `params[i]`, 46_command_dispatch.md R255. -/
def readParam (s : State) (i : Nat) (k : Byte → Result) : Result := readPkt s (3 + i) k

/-- `params[i], params[i+1], … <- vs`, 46_command_dispatch.md R255. -/
def writeParams (s : State) (i : Nat) (vs : Bytes) (k : State → Result) : Result :=
  writePkt s (3 + i) vs k

/-- The end of a dispatched command, 42_session_fsm.md R175: the handler's result in `last_error`, then `S_RESPOND`. -/
def finishCommand (err : Byte) (s : State) : State :=
  { s with lastError := err, sessionState := .respond }

/-- A handler's success. -/
def commandOk (s : State) : Result := .next (finishCommand s.cfg.errNone s)

/-- A handler's parameter error, 60_exceptions.md R281 E10. -/
def badParam (s : State) : Result := .next (finishCommand s.cfg.errBadParam s)

/-- A command the table does not honour, 60_exceptions.md R281 E9. -/
def badCommand (s : State) : Result := .next (finishCommand s.cfg.errBadCmd s)

/-- The length check of 46_command_dispatch.md R258. -/
def withParams (n : Nat) (s : State) (k : Result) : Result :=
  if s.paramLen = n then k else badParam s

/-- The arms of 42_session_fsm.md R175 for a frame whose command is known: what the command does in
address-programming mode (given the address byte), when broadcast, and when addressed to this node. -/
def addressArms (s : State) (inMode : Byte → Result) (onBroadcast onUnicast : Result) : Result :=
  readPkt s 1 fun a =>
    if s.addrProgEn = true then inMode a
    else if a = broadcast then onBroadcast
    else if a = s.nodeAddr then onUnicast
    else .next (abandon s)

end Sys2Proof.Machine
end

