-- ==== Sys2Proof/Machine/Flags.lean ====
section
/-! DEFINITION. The latches, counters and mode flags the block computes: error counters, the CRC check, the
acknowledgement variant, the output channels and the tick-driven counters. -/

namespace Sys2Proof.Machine

/-- `crc_err_count <- (crc_err_count + 1)[7:0]`, 10_state.md R45. -/
def countCrcError (s : State) : State := { s with crcErrCount := s.crcErrCount + 1 }

/-- `timeout_count <- (timeout_count + 1)[7:0]`, 10_state.md R46. -/
def countTimeout (s : State) : State := { s with timeoutCount := s.timeoutCount + 1 }

/-- The outcome of the CRC comparison, 42_session_fsm.md R174. -/
def crcVerdict (ok : Bool) (s : State) : State :=
  if ok = true then { s with sessionState := .decode } else abandon (countCrcError s)

/-- The acknowledgement variant of 42_session_fsm.md R176. -/
def State.ackVariant (s : State) : Byte :=
  match s.crc16Mode, decide (s.lastError = s.cfg.errNone) with
  | true, true => s.cfg.hdrAck16
  | true, false => s.cfg.hdrNak16
  | false, true => s.cfg.hdrAck8
  | false, false => s.cfg.hdrNak8

/-- `out[ch]`, 10_state.md R57. -/
def State.outLevel (s : State) (ch : Byte) : Bool := if ch = 0 then s.out0 else s.out1

/-- `out[ch] <- v`, 46_command_dispatch.md R263: the held level of 10_state.md R57, and the output action
`OutPin(ch) <- v` of 00_scope.md R11. Log entry 23. -/
def setOut (ch : Byte) (v : Bool) (s : State) : State :=
  emit (.outPin ch v)
    { s with
      out0 := if ch = 0 then v else s.out0
      out1 := if ch = 0 then s.out1 else v }

/-- The receive half of `TICK`, 41_frame_receiver.md R159. Log entry 18. -/
def tickReceiver (s : State) : State :=
  if s.rxState = .assembling then
    let s1 := { s with rxTimeout := s.rxTimeout - 1 }
    if s1.rxTimeout = 0 then countTimeout { s1 with rxState := .idle } else s1
  else s

/-- The arbitration half of `TICK`, 45_arbitrator.md R245. -/
def tickArbitrator (s : State) : State :=
  if 0 < s.irqTimer then { s with irqTimer := s.irqTimer - 1 } else s

end Sys2Proof.Machine
end

