-- ==== Sys2Proof/Machine/Handlers.lean ====
section
/-! DEFINITION. The reference command handlers of 46_command_dispatch.md R257 to R271 as operations over the state
(log entry 4). Each runs inside S_DECODE for a frame addressed to this node and ends R175, or starts the
foreground hold of 42_session_fsm.md R181. -/

namespace Sys2Proof.Machine

/-- R259. -/
def handleNoOp (s : State) : Result := withParams 0 s (commandOk s)

/-- R260. -/
def handleGetNodeId (s : State) : Result :=
  withParams 4 s
    (writeParams s 0
      [loByte s.cfg.moduleId, hiByte s.cfg.moduleId, loByte s.cfg.fwVersion, hiByte s.cfg.fwVersion]
      commandOk)

/-- R261: the counters before the clear. -/
def handleGetCommStatus (s : State) : Result :=
  withParams 3 s
    (readParam s 0 fun clear =>
      writeParams s 1 [s.crcErrCount, s.timeoutCount] fun s1 =>
        commandOk (if clear ≠ 0 then { s1 with crcErrCount := 0, timeoutCount := 0 } else s1))

/-- R262 and 45_arbitrator.md R246. -/
def handleGetIrqPoll (s : State) : Result :=
  withParams 1 s
    (writeParams s 0 [s.irqReason] fun s1 =>
      commandOk { s1 with irqReason := s1.cfg.irqNone, irqRaised := false })

/-- R263, sub-commands clear and set. -/
def outputWrite (v : Bool) (s : State) : Result :=
  readParam s 0 fun ch =>
    readParam s 2 fun zero =>
      if ch > 1 ∨ zero ≠ 0 then badParam s else commandOk (setOut ch v s)

/-- R263, sub-command read. -/
def outputReadBack (s : State) : Result :=
  readParam s 0 fun ch =>
    if ch > 1 then badParam s
    else writeParams s 2 [bitByte (s.outLevel ch)] commandOk

/-- R263. -/
def handleOutput (s : State) : Result :=
  withParams 3 s
    (readParam s 1 fun sub =>
      match outputSubOf sub with
      | some .clear => outputWrite false s
      | some .set => outputWrite true s
      | some .read => outputReadBack s
      | none => badParam s)

/-- The foreground waits for the I2C engine, 42_session_fsm.md R181. -/
def hold (s : State) : Result := .next { s with fgCont := .fgI2cWait }

/-- R271 up to its wait. -/
def telemetryBegin (reg : Byte) (s : State) : Result :=
  withParams 8 s (beginTransaction .read reg 0 s hold)

/-- R271 after its wait: exponent, raw value low byte first, scale low byte first; `params[7]` is left. -/
def telemetryFinish (k : Quantity) (s : State) : Result :=
  writeParams s 0
    ([telExp s.cfg k, loByte s.i2cVal, hiByte s.i2cVal]
      ++ bytes32 (telScale s.cfg k s.cfgVrating s.cfgIrating))
    commandOk

/-- R267, sub-command 0. -/
def shuntConfigRead (s : State) : Result :=
  writeParams s 1 [s.cfgVrating, loByte s.cfgIrating, hiByte s.cfgIrating] commandOk

/-- R267, the bounds of a write. -/
abbrev ratingsInRange (v : Byte) (i : Half) : Prop := 1 ≤ v ∧ v ≤ 80 ∧ 1 ≤ i ∧ i ≤ 200

/-- R267, the six store writes of a valid record. -/
def persistRatings (v : Byte) (i : Half) (s : State) : State :=
  storeWrite (s.cfg.cfgOffset + 5) (hiByte i)
    (storeWrite (s.cfg.cfgOffset + 4) (loByte i)
      (storeWrite (s.cfg.cfgOffset + 3) 0
        (storeWrite (s.cfg.cfgOffset + 2) v
          (storeWrite (s.cfg.cfgOffset + 1) (hiByte s.cfg.cfgSignature)
            (storeWrite s.cfg.cfgOffset (loByte s.cfg.cfgSignature) s)))))

/-- R267, sub-command 1 up to its wait: ratings, store, then the push of the calibration constant. -/
def shuntConfigWrite (s : State) : Result :=
  readParam s 1 fun v =>
    readParam s 2 fun lo =>
      readParam s 3 fun hi =>
        if ratingsInRange v (pair hi lo) then
          let s1 := persistRatings v (pair hi lo)
            { s with cfgVrating := v, cfgIrating := pair hi lo, cfgCal := calConst s.cfg v (pair hi lo) }
          beginTransaction .write s1.cfg.regCal s1.cfgCal s1 hold
        else badParam s

/-- R267, sub-command 2. -/
def shuntCalRead (s : State) : Result :=
  writeParams s 1 [loByte s.cfgCal, hiByte s.cfgCal] commandOk

/-- R267. -/
def handleShuntConfig (s : State) : Result :=
  withParams 4 s
    (readParam s 0 fun sub =>
      match shuntSubOf sub with
      | some .readConfig => shuntConfigRead s
      | some .writeConfig => shuntConfigWrite s
      | some .readCal => shuntCalRead s
      | none => badParam s)

/-- `Dispatch(c, plen)`, R257: the ten commands of the table; every other code is a bad command, and so are
program-address (R268: outside its mode) and the enumeration request (unicast). -/
def dispatch (c : Byte) (s : State) : Result :=
  match commandOf s.cfg c with
  | .noOp => handleNoOp s
  | .getNodeId => handleGetNodeId s
  | .getCommStatus => handleGetCommStatus s
  | .getIrqPoll => handleGetIrqPoll s
  | .output => handleOutput s
  | .getVolts => telemetryBegin s.cfg.regBusv s
  | .getCurrent => telemetryBegin s.cfg.regCurrent s
  | .getPower => telemetryBegin s.cfg.regPower s
  | .shuntConfig => handleShuntConfig s
  | .programAddress => badCommand s
  | .enumRequest => badCommand s
  | .unknown => badCommand s

/-- The handler that waited finishes, 42_session_fsm.md R181. `fg_cont` holds no handler's name: it is the one
of the command still in `pkt[2]`. Log entry 15. -/
def resumeHandler (s : State) : Result :=
  readPkt s 2 fun c =>
    match commandOf s.cfg c with
    | .getVolts => telemetryFinish .volts s
    | .getCurrent => telemetryFinish .current s
    | .getPower => telemetryFinish .power s
    | .shuntConfig => commandOk s
    | .noOp => .refused .noSuspendedHandler
    | .getNodeId => .refused .noSuspendedHandler
    | .getCommStatus => .refused .noSuspendedHandler
    | .getIrqPoll => .refused .noSuspendedHandler
    | .output => .refused .noSuspendedHandler
    | .programAddress => .refused .noSuspendedHandler
    | .enumRequest => .refused .noSuspendedHandler
    | .unknown => .refused .noSuspendedHandler

/-- `BroadcastAction` for the broadcast-legal set of R269 and R270, then S_FINISH. -/
def broadcastAction (c : Byte) (s : State) : State :=
  let s1 := if c = s.cfg.cmdEnumRequest then raiseReason s.cfg.irqEnum s else s
  { s1 with sessionState := .finish }

/-- An accepted program-address command, 42_session_fsm.md R175. -/
def acceptAddress (a : Byte) (s : State) : State :=
  finishCommand s.cfg.errNone (assignAddress a s)

end Sys2Proof.Machine
end

