-- ==== Sys2Proof/Machine/Command.lean ====
section
/-! DEFINITION. The command rows and the address_byte rows: the S_DECODE step of 42_session_fsm.md R175 when the
frame carries this command code or this class of address. -/

namespace Sys2Proof.Machine

/-- S_DECODE meets a command of class `k`. -/
def onCommand (mnemonic : String) (k : Command) (s : State) (r : Result) : Result :=
  onlyIf mnemonic (s.polls .decode)
    (readPkt s 2 fun c => onlyIf mnemonic (commandOf s.cfg c = k) r)

/-- A command that is honoured when addressed to this node and nowhere else: refused silently in
address-programming mode (60_exceptions.md E8), without effect when broadcast (46_command_dispatch.md R270). -/
def unicastCommand (mnemonic : String) (k : Command) (handler : State → Result) (s : State) : Result :=
  onCommand mnemonic k s
    (addressArms s (fun _ => .next (abandon s)) (.next { s with sessionState := .finish }) (handler s))

/-- R259. -/
def execNoOp (s : State) : Result := unicastCommand "no-op" .noOp handleNoOp s

/-- R260. -/
def execGetNodeId (s : State) : Result := unicastCommand "get-node-id" .getNodeId handleGetNodeId s

/-- R261. -/
def execGetCommStatus (s : State) : Result :=
  unicastCommand "get-comm-status" .getCommStatus handleGetCommStatus s

/-- R262. -/
def execGetIrqPoll (s : State) : Result :=
  unicastCommand "get-irq-poll" .getIrqPoll handleGetIrqPoll s

/-- R263. -/
def execGetSetOutput (s : State) : Result := unicastCommand "get_set-output" .output handleOutput s

/-- R264. -/
def execGetVolts (s : State) : Result :=
  unicastCommand "get-volts" .getVolts (telemetryBegin s.cfg.regBusv) s

/-- R265. -/
def execGetCurrent (s : State) : Result :=
  unicastCommand "get-current" .getCurrent (telemetryBegin s.cfg.regCurrent) s

/-- R266. -/
def execGetPower (s : State) : Result :=
  unicastCommand "get-power" .getPower (telemetryBegin s.cfg.regPower) s

/-- R267. -/
def execGetSetShuntConfig (s : State) : Result :=
  unicastCommand "get_set-shunt-config" .shuntConfig handleShuntConfig s

/-- R268: accepted in address-programming mode for an address other than 255, a bad command outside the mode. -/
def execCmdProgramAddress (s : State) : Result :=
  onCommand "program-address" .programAddress s
    (addressArms s
      (fun a => if a = broadcast then .next (abandon s) else .next (acceptAddress a s))
      (.next { s with sessionState := .finish })
      (badCommand s))

/-- R269: broadcast only; unicast it is a bad command (R257). -/
def execEnumerationRequest (s : State) : Result :=
  onCommand "enumeration-request" .enumRequest s
    (addressArms s (fun _ => .next (abandon s))
      (.next { raiseReason s.cfg.irqEnum s with sessionState := .finish })
      (badCommand s))

/-- R257 and R270: an unknown code. -/
def execCmdUnknown (c : Byte) (s : State) : Result :=
  onlyIf "CMD.UNKNOWN" (s.pktByte 2 = c) (unicastCommand "CMD.UNKNOWN" .unknown badCommand s)

/-- R173 and 30_encoding.md R110: the command byte of the packet the node sends on its own. -/
def execNotify (s : State) : Result :=
  onlyIf "NOTIFY" (s.polls .start ∧ s.attemptDue) (sendNotification s)

/-- R175 for the address 255: refused in address-programming mode, else the broadcast action and no answer. -/
def execAddrBroadcast (s : State) : Result :=
  onlyIf "ADDR.BROADCAST" (s.polls .decode)
    (readPkt s 1 fun a =>
      onlyIf "ADDR.BROADCAST" (a = broadcast)
        (if s.addrProgEn = true then .next (abandon s)
         else readPkt s 2 fun c => .next (broadcastAction c s)))

/-- R175 for an address 0 to 254. -/
def execAddrUnicast (a : Byte) (s : State) : Result :=
  onlyIf "ADDR.UNICAST" (s.polls .decode ∧ a ≠ broadcast)
    (readPkt s 1 fun a' =>
      onlyIf "ADDR.UNICAST" (a' = a)
        (readPkt s 2 fun c =>
          if s.addrProgEn = true then
            if c = s.cfg.cmdProgramAddress then .next (acceptAddress a s) else .next (abandon s)
          else if a = s.nodeAddr then dispatch c s
          else .next (abandon s)))

/-- S_DECODE dispatches a command of class `k` with `n` parameters, addressed to this node, whose parameter `i`
satisfies `sel`: the condition of a sub_command row. -/
def onSubCommand (mnemonic : String) (k : Command) (n i : Nat) (sel : Byte → Prop) [DecidablePred sel]
    (s : State) (r : Result) : Result :=
  onCommand mnemonic k s
    (onlyIf mnemonic (s.addrProgEn = false ∧ s.nodeAddr ≠ broadcast ∧ s.paramLen = n)
      (readPkt s 1 fun a =>
        onlyIf mnemonic (a = s.nodeAddr)
          (readParam s i fun v => onlyIf mnemonic (sel v) r)))

/-- R263, sub-command 0. -/
def execOutputClear (s : State) : Result :=
  onSubCommand "output.clear" .output 3 1 (fun v => outputSubOf v = some .clear) s (outputWrite false s)

/-- R263, sub-command 1. -/
def execOutputSet (s : State) : Result :=
  onSubCommand "output.set" .output 3 1 (fun v => outputSubOf v = some .set) s (outputWrite true s)

/-- R263, sub-command 2. -/
def execOutputRead (s : State) : Result :=
  onSubCommand "output.read" .output 3 1 (fun v => outputSubOf v = some .read) s (outputReadBack s)

/-- R267, sub-command 0. -/
def execShuntReadConfig (s : State) : Result :=
  onSubCommand "shunt.read_config" .shuntConfig 4 0 (fun v => shuntSubOf v = some .readConfig) s
    (shuntConfigRead s)

/-- R267, sub-command 1. -/
def execShuntWriteConfig (s : State) : Result :=
  onSubCommand "shunt.write_config" .shuntConfig 4 0 (fun v => shuntSubOf v = some .writeConfig) s
    (shuntConfigWrite s)

/-- R267, sub-command 2. -/
def execShuntReadCal (s : State) : Result :=
  onSubCommand "shunt.read_cal" .shuntConfig 4 0 (fun v => shuntSubOf v = some .readCal) s
    (shuntCalRead s)

end Sys2Proof.Machine
end

