-- ==== Sys2Proof/Machine/I2c.lean ====
section
/-! DEFINITION. The i2c_phase rows: 44_i2c_engine.md R217 to R227 and the address byte of 30_encoding.md R99. The
operand `d` is used in PH5 and PH7 only. -/

namespace Sys2Proof.Machine

/-- The engine is busy and its cursor is at a phase, R217 and R218. -/
abbrev State.atPhase (s : State) (p : BitVec 4) : Prop := s.i2cBusy = true ∧ s.i2cPhase = p

/-- R218. -/
def execI2cPh0 (_d : Byte) (s : State) : Result :=
  onlyIf "I2C.PH0" (s.atPhase 0) (.next (busStep (.send (addrByte s.cfg.i2cDevAddr .write)) 1 s))

/-- R219. -/
def execI2cPh1 (_d : Byte) (s : State) : Result :=
  onlyIf "I2C.PH1" (s.atPhase 1) (.next (busStep (.send s.i2cReg) 2 s))

/-- R220. -/
def execI2cPh2 (_d : Byte) (s : State) : Result :=
  onlyIf "I2C.PH2" (s.atPhase 2)
    (.next (busStep (match s.i2cDir with
      | .write => .send (hiByte s.i2cVal)
      | .read => .restart) 3 s))

/-- R221. -/
def execI2cPh3 (_d : Byte) (s : State) : Result :=
  onlyIf "I2C.PH3" (s.atPhase 3)
    (.next (busStep (match s.i2cDir with
      | .write => .send (loByte s.i2cVal)
      | .read => .send (addrByte s.cfg.i2cDevAddr .read)) 4 s))

/-- R222. -/
def execI2cPh4 (_d : Byte) (s : State) : Result :=
  onlyIf "I2C.PH4" (s.atPhase 4)
    (.next (match s.i2cDir with
      | .write => busDone s
      | .read => busStep .rxEnable 5 s))

/-- R223: `i2c_val[15:8] <- d`. Log entry 17. -/
def execI2cPh5 (d : Byte) (s : State) : Result :=
  onlyIf "I2C.PH5" (s.atPhase 5)
    (.next (busStep .ack 6 { s with i2cVal := pair d (loByte s.i2cVal) }))

/-- R224. -/
def execI2cPh6 (_d : Byte) (s : State) : Result :=
  onlyIf "I2C.PH6" (s.atPhase 6) (.next (busStep .rxEnable 7 s))

/-- R225: `i2c_val[7:0] <- d`, and no bus action. -/
def execI2cPh7 (d : Byte) (s : State) : Result :=
  onlyIf "I2C.PH7" (s.atPhase 7)
    (.next { s with i2cVal := pair (hiByte s.i2cVal) d, i2cPhase := 8 })

/-- R226. -/
def execI2cPh8 (_d : Byte) (s : State) : Result :=
  onlyIf "I2C.PH8" (s.atPhase 8) (.next (busDone s))

/-- R227 and R230: the cursor goes back to PH0 and the engine stays busy. -/
def execI2cIllegal (phase : BitVec 4) (_d : Byte) (s : State) : Result :=
  onlyIf "I2C.ILLEGAL" (s.atPhase phase ∧ 9 ≤ phase)
    (.next { s with
      i2cPhase := 0
      i2cErr := match s.cfg.i2cErrPolicy with
        | .never => s.i2cErr
        | .onIllegalCursor => true })

/-- R99, used by R218 (direction write) and R221 (direction read): the phase that sends this address byte. -/
def execI2cAddrByte (a : BitVec 7) (r : Dir) (s : State) : Result :=
  match r with
  | .write =>
    onlyIf "I2C.ADDR_BYTE" (a = s.cfg.i2cDevAddr ∧ s.atPhase 0)
      (.next (busStep (.send (addrByte a .write)) 1 s))
  | .read =>
    onlyIf "I2C.ADDR_BYTE" (a = s.cfg.i2cDevAddr ∧ s.atPhase 3 ∧ s.i2cDir = .read)
      (.next (busStep (.send (addrByte a .read)) 4 s))

end Sys2Proof.Machine
end

