-- ==== Sys2Proof/Machine/Receiver.lean ====
section
/-! DEFINITION. The wire_rx rows: 41_frame_receiver.md R150 to R158. A row is selected by the ordered tests of
30_encoding.md R91. -/

namespace Sys2Proof.Machine

/-- The class of the byte `b` in the state `s`, 30_encoding.md R91. -/
def State.rxClass (s : State) (b : Byte) : RxClass :=
  Sys2Proof.rxClass s.cfg s.pktReady s.rxState s.rxEsc b

/-- R151: the byte is lost. -/
def execRxDrop (b : Byte) (s : State) : Result :=
  onlyIf "RX.DROP" (s.rxClass b = .drop) (.next s)

/-- R155: the byte after an escape is data, whatever it is. -/
def execRxEscaped (b : Byte) (s : State) : Result :=
  onlyIf "RX.ESCAPED" (s.rxClass b = .escaped) (.next (append b { s with rxEsc := false }))

/-- R152: a start marker begins a frame and arms the frame timeout. -/
def execRxStart (s : State) : Result :=
  onlyIf "RX.START" (s.rxClass s.cfg.frameStart = .start)
    (.next { s with
      rxIdx := 0
      rxEsc := false
      rxTimeout := s.cfg.rxTimeoutTicks
      rxState := .assembling })

/-- R153: outside a frame nothing but a start marker acts. -/
def execRxIgnore (b : Byte) (s : State) : Result :=
  onlyIf "RX.IGNORE" (s.rxClass b = .ignore) (.next s)

/-- R154: an end marker latches the packet. -/
def execRxEnd (s : State) : Result :=
  onlyIf "RX.END" (s.rxClass s.cfg.frameEnd = .endMark)
    (.next { s with rxState := .finishing, pktReady := true })

/-- R156: an escape byte sets the escape-pending flag. -/
def execRxEsc (s : State) : Result :=
  onlyIf "RX.ESC" (s.rxClass s.cfg.esc = .esc) (.next { s with rxEsc := true })

/-- R157: a data byte is appended. -/
def execRxData (b : Byte) (s : State) : Result :=
  onlyIf "RX.DATA" (s.rxClass b = .data) (.next (append b s))

end Sys2Proof.Machine
end

