-- ==== Sys2Proof/Machine/Validate.lean ====
section
/-! DEFINITION. The control_byte rows: what a received packet's control byte selects in S_PACKET_READY
(42_session_fsm.md R174, 60_exceptions.md R282), and, for the variants the node sends, the step that writes them
(R173, R176). -/

namespace Sys2Proof.Machine

/-- The length and CRC checks of R174 for an 8-bit-CRC request. -/
def validate8 (s : State) : Result :=
  let s1 := { s with crc16Mode := false }
  if s1.rxIdx > s1.cfg.cap ∨ s1.rxIdx < ovh8 then .next (abandon s1)
  else
    readSlice s1 (s1.rxIdx - 1) fun covered =>
      readPkt s1 (s1.rxIdx - 1) fun crc =>
        let s2 := runCrc8 covered s1
        .next (crcVerdict (decide (s2.crc8Reg = crc)) s2)

/-- The length and CRC checks of R174 for a 16-bit-CRC request. -/
def validate16 (s : State) : Result :=
  let s1 := { s with crc16Mode := true }
  if s1.rxIdx > s1.cfg.cap ∨ s1.rxIdx < ovh16 then .next (abandon s1)
  else
    readSlice s1 (s1.rxIdx - 2) fun covered =>
      readPkt s1 (s1.rxIdx - 1) fun hi =>
        readPkt s1 (s1.rxIdx - 2) fun lo =>
          let s2 := runCrc16 0 covered s1
          .next (crcVerdict (decide (s2.crc16Reg = pair hi lo)) s2)

/-- The state examines a received control byte of class `k`: S_PACKET_READY, at least one byte (R174). -/
def onHeader (mnemonic : String) (k : Control) (s : State) (r : Result) : Result :=
  onlyIf mnemonic (s.polls .packetReady ∧ 1 ≤ s.rxIdx)
    (readPkt s 0 fun b => onlyIf mnemonic (controlOf s.cfg b = k) r)

/-- R176 once the acknowledgement variant is known: the control byte, the full received length, on to S_TX_START. -/
def respondWith (h : Byte) (s : State) : Result :=
  writePkt s 0 [h] fun s1 => .next { s1 with txLen := s1.rxIdx, sessionState := .txStart }

/-- An acknowledgement variant: written by S_RESPOND when R176 selects it, abandoned when received (R282). -/
def ackRow (mnemonic : String) (k : Control) (h : Byte) (s : State) : Result :=
  if s.polls .respond then onlyIf mnemonic (s.ackVariant = h) (respondWith h s)
  else onHeader mnemonic k s (.next (abandon s))

/-- R174, the request with an 8-bit CRC. -/
def execReq8 (s : State) : Result := onHeader "REQ8" .req8 s (validate8 s)

/-- R174, the request with a 16-bit CRC. -/
def execReq16 (s : State) : Result := onHeader "REQ16" .req16 s (validate16 s)

/-- R176 and R282. -/
def execAck8 (s : State) : Result := ackRow "ACK8" .ack8 s.cfg.hdrAck8 s

/-- R176 and R282. -/
def execNak8 (s : State) : Result := ackRow "NAK8" .nak8 s.cfg.hdrNak8 s

/-- R176 and R282. -/
def execAck16 (s : State) : Result := ackRow "ACK16" .ack16 s.cfg.hdrAck16 s

/-- R176 and R282. -/
def execNak16 (s : State) : Result := ackRow "NAK16" .nak16 s.cfg.hdrNak16 s

/-- R173 and R282: the notification variant, written by S_START, abandoned when received. -/
def execIrq16 (s : State) : Result :=
  if s.polls .start then onlyIf "IRQ16" s.attemptDue (sendNotification s)
  else onHeader "IRQ16" .irq16 s (.next (abandon s))

/-- R282: any other control byte is abandoned, not counted. -/
def execHdrOther (b : Byte) (s : State) : Result :=
  onHeader "HDR.OTHER" .other s (onlyIf "HDR.OTHER" (s.pktByte 0 = b) (.next (abandon s)))

end Sys2Proof.Machine
end

