-- ==== Sys2Proof/Machine/Session.lean ====
section
/-! DEFINITION. The session_state rows: 42_session_fsm.md R173 to R181. -/

namespace Sys2Proof.Machine

/-- R173. -/
def execPollSStart (s : State) : Result :=
  onlyIf "POLL.S_START" (s.polls .start)
    (if s.pktReady = true then .next { s with sessionState := .packetReady }
     else if s.irqRaised = true ∧ s.irqTimer = 0 ∧ s.addrProgEn = false then sendNotification s
     else .next s)

/-- R174: `pkt[0]` is read only when at least one byte was received. -/
def execPollSPacketReady (s : State) : Result :=
  onlyIf "POLL.S_PACKET_READY" (s.polls .packetReady)
    (if s.rxIdx = 0 then .next (abandon s)
     else
      readPkt s 0 fun b =>
        match controlOf s.cfg b with
        | .req8 => validate8 s
        | .req16 => validate16 s
        | .ack8 => .next (abandon s)
        | .nak8 => .next (abandon s)
        | .ack16 => .next (abandon s)
        | .nak16 => .next (abandon s)
        | .irq16 => .next (abandon s)
        | .other => .next (abandon s))

/-- R175. -/
def execPollSDecode (s : State) : Result :=
  onlyIf "POLL.S_DECODE" (s.polls .decode)
    (readPkt s 1 fun a =>
      readPkt s 2 fun c =>
        if s.addrProgEn = true then
          if c = s.cfg.cmdProgramAddress ∧ a ≠ broadcast then .next (acceptAddress a s)
          else .next (abandon s)
        else if a = broadcast then .next (broadcastAction c s)
        else if a = s.nodeAddr then dispatch c s
        else .next (abandon s))

/-- R176. -/
def execPollSRespond (s : State) : Result :=
  onlyIf "POLL.S_RESPOND" (s.polls .respond) (respondWith s.ackVariant s)

/-- R177 after its CRC: the transmitter is armed (43_frame_transmitter.md R200). -/
def armTransmitter (s : State) : State :=
  { s with
    lineDriverEn := true
    txState := .idle
    txIdx := 0
    txRem := s.txLen
    txBusy := true
    txIrqEn := true
    sessionState := .waitTx }

/-- R177. A length below the CRC's own would put the CRC at a negative index: R62, log entry 10. -/
def execPollSTxStart (s : State) : Result :=
  onlyIf "POLL.S_TX_START" (s.polls .txStart)
    (if s.crc16Mode = true then
      if s.txLen < 2 then .fault (.pktIndexOutOfRange 0)
      else
        readSlice s (s.txLen - 2) fun covered =>
          let s1 := runCrc16 0 covered s
          writePkt s1 (s1.txLen - 2) [loByte s1.crc16Reg, hiByte s1.crc16Reg] fun s2 =>
            .next (armTransmitter s2)
     else
      if s.txLen < 1 then .fault (.pktIndexOutOfRange 0)
      else
        readSlice s (s.txLen - 1) fun covered =>
          let s1 := runCrc8 covered s
          writePkt s1 (s1.txLen - 1) [s1.crc8Reg] fun s2 => .next (armTransmitter s2))

/-- R178. -/
def execPollSWaitTx (s : State) : Result :=
  onlyIf "POLL.S_WAIT_TX" (s.polls .waitTx)
    (.next (if s.txBusy = false then { s with sessionState := .waitDrain } else s))

/-- R179. -/
def execPollSWaitDrain (s : State) : Result :=
  onlyIf "POLL.S_WAIT_DRAIN" (s.polls .waitDrain)
    (.next (if s.uartTxEmpty = true then
      emit .activityPulse { s with lineDriverEn := false, sessionState := .finish }
     else s))

/-- R180: the return from every path. -/
def execPollSFinish (s : State) : Result :=
  onlyIf "POLL.S_FINISH" (s.polls .finish) (.next (returnToStart s))

/-- R181. -/
def execPollFgI2cWait (s : State) : Result :=
  onlyIf "POLL.FG_I2C_WAIT" (s.fgCont = .fgI2cWait)
    (let s1 := emit .wdtKick s
     if s1.i2cBusy = true then .next s1 else resumeHandler { s1 with fgCont := .fgNone })

end Sys2Proof.Machine
end

