-- ==== Sys2Proof/Machine/Transmitter.lean ====
section
/-! DEFINITION. The wire_tx rows: 43_frame_transmitter.md R200 to R205. -/

namespace Sys2Proof.Machine

/-- A data byte has been handed to the line: index, remaining count and state, R202 and R204. Log entry 18. -/
def dataSent (s : State) : State :=
  { s with
    txIdx := s.txIdx + 1
    txRem := s.txRem - 1
    txState := if s.txRem - 1 = 0 then .done else .sending }

/-- R201. -/
def execTxStartMark (s : State) : Result :=
  onlyIf "TX.START_MARK" (s.txIrqEn = true ∧ s.txState = .idle)
    (.next (emit (.uartWrite s.cfg.frameStart)
      { s with txState := if s.txRem = 0 then .done else .sending }))

/-- R202: a byte above ESC is sent as it is. -/
def execTxData (s : State) : Result :=
  onlyIf "TX.DATA" (s.txIrqEn = true ∧ s.txState = .sending)
    (readPkt s s.txIdx fun p =>
      onlyIf "TX.DATA" (txAction s.cfg s.txState p = .data)
        (.next (emit (.uartWrite p) (dataSent s))))

/-- R203: a byte at or below ESC is announced by the escape byte. -/
def execTxEsc (s : State) : Result :=
  onlyIf "TX.ESC" (s.txIrqEn = true ∧ s.txState = .sending)
    (readPkt s s.txIdx fun p =>
      onlyIf "TX.ESC" (txAction s.cfg s.txState p = .esc)
        (.next (emit (.uartWrite s.cfg.esc) { s with txState := .escWait })))

/-- R204: the announced byte follows unmodified. -/
def execTxEscaped (s : State) : Result :=
  onlyIf "TX.ESCAPED" (s.txIrqEn = true ∧ s.txState = .escWait)
    (readPkt s s.txIdx fun p => .next (emit (.uartWrite p) (dataSent s)))

/-- R205: the end marker, the trigger off, not busy. -/
def execTxEndMark (s : State) : Result :=
  onlyIf "TX.END_MARK" (s.txIrqEn = true ∧ s.txState = .done)
    (.next (emit (.uartWrite s.cfg.frameEnd)
      { s with txIrqEn := false, txBusy := false, txState := .idle }))

end Sys2Proof.Machine
end

