-- ==== Sys2Proof/Machine/Operation.lean ====
section
/-! DEFINITION. The operation rows: the events of 00_scope.md R9, which dispatch to the rows their operand and the
cursors select, and the procedures called inside `POLL`. -/

namespace Sys2Proof.Machine

/-- `RX_BYTE(b)`, 41_frame_receiver.md R150. -/
def execRxByte (b : Byte) (s : State) : Result :=
  match s.rxClass b with
  | .drop => execRxDrop b s
  | .escaped => execRxEscaped b s
  | .start => execRxStart s
  | .ignore => execRxIgnore b s
  | .endMark => execRxEnd s
  | .esc => execRxEsc s
  | .data => execRxData b s

/-- `TX_READY`, 43_frame_transmitter.md R200; without effect while `tx_irq_en = 0`. -/
def execTxReady (s : State) : Result :=
  if s.txIrqEn = true then
    match s.txState with
    | .idle => execTxStartMark s
    | .sending =>
      readPkt s s.txIdx fun p => if p ≤ s.cfg.esc then execTxEsc s else execTxData s
    | .escWait => execTxEscaped s
    | .done => execTxEndMark s
  else .next s

/-- The receive half of `TICK`, 41_frame_receiver.md R159. -/
def execTickRx (s : State) : Result := .next (tickReceiver s)

/-- The arbitration half of `TICK`, 45_arbitrator.md R245. -/
def execTickArb (s : State) : Result := .next (tickArbitrator s)

/-- `I2C_EVENT(d)`, 44_i2c_engine.md R215 and R217; without effect while `i2c_busy = 0`. -/
def execI2cEvent (d : Byte) (s : State) : Result :=
  if s.i2cBusy = true then
    match s.i2cPhase.toNat with
    | 0 => execI2cPh0 d s
    | 1 => execI2cPh1 d s
    | 2 => execI2cPh2 d s
    | 3 => execI2cPh3 d s
    | 4 => execI2cPh4 d s
    | 5 => execI2cPh5 d s
    | 6 => execI2cPh6 d s
    | 7 => execI2cPh7 d s
    | 8 => execI2cPh8 d s
    | _ => execI2cIllegal s.i2cPhase d s
  else .next s

/-- `POLL`, 42_session_fsm.md R170. -/
def execPoll (s : State) : Result :=
  match s.fgCont with
  | .fgI2cWait => execPollFgI2cWait s
  | .fgNone =>
    match s.sessionState with
    | .start => execPollSStart s
    | .packetReady => execPollSPacketReady s
    | .decode => execPollSDecode s
    | .respond => execPollSRespond s
    | .txStart => execPollSTxStart s
    | .waitTx => execPollSWaitTx s
    | .waitDrain => execPollSWaitDrain s
    | .finish => execPollSFinish s

/-- `CRC8(buf)`, 40_crc.md R133: the result is left in `crc8_reg`. -/
def execCrc8 (buf : Bytes) (s : State) : Result := .next (runCrc8 buf s)

/-- `CRC16(seed, buf)`, 40_crc.md R134: the result is left in `crc16_reg`. -/
def execCrc16 (seed : Half) (buf : Bytes) (s : State) : Result := .next (runCrc16 seed buf s)

/-- `I2C_BEGIN(dir, reg, val)`, 44_i2c_engine.md R216 and R231. -/
def execI2cBegin (dir : Dir) (reg : Byte) (val : Half) (s : State) : Result :=
  beginTransaction dir reg val s fun s1 => .next s1

/-- `Reseed()`, 45_arbitrator.md R242. -/
def execReseed (s : State) : Result := .next (reseedHoldoff s)

/-- `Raise(r)`, 45_arbitrator.md R243. -/
def execRaise (r : Byte) (s : State) : Result := .next (raiseReason r s)

/-- `ProgramAddress(a)`, 46_command_dispatch.md R268. Log entry 19. -/
def execProgramAddress (a : Byte) (s : State) : Result :=
  if a = broadcast then .refused .programAddressBroadcast else .next (assignAddress a s)

end Sys2Proof.Machine
end

