-- ==== Sys2Proof/Machine/Dispatch.lean ====
section
/-! DEFINITION. The one dispatch: every row of spec/opcode_table.json to its meaning. -/

namespace Sys2Proof.Machine

def exec (i : Instr) (s : State) : Host.Outcome State Fault Refusal :=
  match i with
  | .rxDrop b => Sys2Proof.Machine.execRxDrop b s
  | .rxEscaped b => Sys2Proof.Machine.execRxEscaped b s
  | .rxStart => Sys2Proof.Machine.execRxStart s
  | .rxIgnore b => Sys2Proof.Machine.execRxIgnore b s
  | .rxEnd => Sys2Proof.Machine.execRxEnd s
  | .rxEsc => Sys2Proof.Machine.execRxEsc s
  | .rxData b => Sys2Proof.Machine.execRxData b s
  | .txStartMark => Sys2Proof.Machine.execTxStartMark s
  | .txData => Sys2Proof.Machine.execTxData s
  | .txEsc => Sys2Proof.Machine.execTxEsc s
  | .txEscaped => Sys2Proof.Machine.execTxEscaped s
  | .txEndMark => Sys2Proof.Machine.execTxEndMark s
  | .req8 => Sys2Proof.Machine.execReq8 s
  | .req16 => Sys2Proof.Machine.execReq16 s
  | .ack8 => Sys2Proof.Machine.execAck8 s
  | .nak8 => Sys2Proof.Machine.execNak8 s
  | .ack16 => Sys2Proof.Machine.execAck16 s
  | .nak16 => Sys2Proof.Machine.execNak16 s
  | .irq16 => Sys2Proof.Machine.execIrq16 s
  | .hdrOther b => Sys2Proof.Machine.execHdrOther b s
  | .addrBroadcast => Sys2Proof.Machine.execAddrBroadcast s
  | .addrUnicast a => Sys2Proof.Machine.execAddrUnicast a s
  | .noOp => Sys2Proof.Machine.execNoOp s
  | .getNodeId => Sys2Proof.Machine.execGetNodeId s
  | .getCommStatus => Sys2Proof.Machine.execGetCommStatus s
  | .getIrqPoll => Sys2Proof.Machine.execGetIrqPoll s
  | .getSetOutput => Sys2Proof.Machine.execGetSetOutput s
  | .getVolts => Sys2Proof.Machine.execGetVolts s
  | .getCurrent => Sys2Proof.Machine.execGetCurrent s
  | .getPower => Sys2Proof.Machine.execGetPower s
  | .getSetShuntConfig => Sys2Proof.Machine.execGetSetShuntConfig s
  | .cmdProgramAddress => Sys2Proof.Machine.execCmdProgramAddress s
  | .enumerationRequest => Sys2Proof.Machine.execEnumerationRequest s
  | .cmdUnknown c => Sys2Proof.Machine.execCmdUnknown c s
  | .notify => Sys2Proof.Machine.execNotify s
  | .outputClear => Sys2Proof.Machine.execOutputClear s
  | .outputSet => Sys2Proof.Machine.execOutputSet s
  | .outputRead => Sys2Proof.Machine.execOutputRead s
  | .shuntReadConfig => Sys2Proof.Machine.execShuntReadConfig s
  | .shuntWriteConfig => Sys2Proof.Machine.execShuntWriteConfig s
  | .shuntReadCal => Sys2Proof.Machine.execShuntReadCal s
  | .pollSStart => Sys2Proof.Machine.execPollSStart s
  | .pollSPacketReady => Sys2Proof.Machine.execPollSPacketReady s
  | .pollSDecode => Sys2Proof.Machine.execPollSDecode s
  | .pollSRespond => Sys2Proof.Machine.execPollSRespond s
  | .pollSTxStart => Sys2Proof.Machine.execPollSTxStart s
  | .pollSWaitTx => Sys2Proof.Machine.execPollSWaitTx s
  | .pollSWaitDrain => Sys2Proof.Machine.execPollSWaitDrain s
  | .pollSFinish => Sys2Proof.Machine.execPollSFinish s
  | .pollFgI2cWait => Sys2Proof.Machine.execPollFgI2cWait s
  | .i2cPh0 d => Sys2Proof.Machine.execI2cPh0 d s
  | .i2cPh1 d => Sys2Proof.Machine.execI2cPh1 d s
  | .i2cPh2 d => Sys2Proof.Machine.execI2cPh2 d s
  | .i2cPh3 d => Sys2Proof.Machine.execI2cPh3 d s
  | .i2cPh4 d => Sys2Proof.Machine.execI2cPh4 d s
  | .i2cPh5 d => Sys2Proof.Machine.execI2cPh5 d s
  | .i2cPh6 d => Sys2Proof.Machine.execI2cPh6 d s
  | .i2cPh7 d => Sys2Proof.Machine.execI2cPh7 d s
  | .i2cPh8 d => Sys2Proof.Machine.execI2cPh8 d s
  | .i2cIllegal phase d => Sys2Proof.Machine.execI2cIllegal phase d s
  | .i2cAddrByte a r => Sys2Proof.Machine.execI2cAddrByte a r s
  | .rxByte b => Sys2Proof.Machine.execRxByte b s
  | .txReady => Sys2Proof.Machine.execTxReady s
  | .tickRx => Sys2Proof.Machine.execTickRx s
  | .tickArb => Sys2Proof.Machine.execTickArb s
  | .i2cEvent d => Sys2Proof.Machine.execI2cEvent d s
  | .poll => Sys2Proof.Machine.execPoll s
  | .crc8 buf => Sys2Proof.Machine.execCrc8 buf s
  | .crc16 seed buf => Sys2Proof.Machine.execCrc16 seed buf s
  | .i2cBegin dir reg val => Sys2Proof.Machine.execI2cBegin dir reg val s
  | .reseed => Sys2Proof.Machine.execReseed s
  | .raise r => Sys2Proof.Machine.execRaise r s
  | .programAddress a => Sys2Proof.Machine.execProgramAddress a s

end Sys2Proof.Machine
end

