-- ==== Sys2Proof/Machine/Fetch.lean ====
section
/-! DEFINITION. How an input becomes instructions: the coded words an event presents to the decoder with the
cursors and latches that gate it (30_encoding.md R90, R103), their execution in one atomic step, and the
placing of one instruction as the next input. -/

namespace Sys2Proof.Machine

def bitCode (b : Bool) : Byte := if b then 1 else 0

/-- The coded words of an event. `TICK` has two halves in one step (41_frame_receiver.md R159, log entry 14);
an event whose enable is off presents its own operation row, which does nothing (R200, R217). -/
def fetch (s : State) : Event → Except Fault (List Bytes)
  | .rxByte b => .ok [[1, bitCode s.pktReady, s.rxState.code, bitCode s.rxEsc, b]]
  | .txReady =>
    if s.txIrqEn = true then
      match s.txState with
      | .sending =>
        if s.txIdx < s.cfg.cap then .ok [[2, TxState.sending.code, s.pktByte s.txIdx]]
        else .error (.pktIndexOutOfRange s.txIdx)
      | .idle => .ok [[2, TxState.idle.code, 0]]
      | .escWait => .ok [[2, TxState.escWait.code, 0]]
      | .done => .ok [[2, TxState.done.code, 0]]
    else .ok [[12, 1]]
  | .tick => .ok [[12, 2], [12, 3]]
  | .i2cEvent d =>
    if s.i2cBusy = true then .ok [[10, s.i2cPhase.setWidth 8, d]] else .ok [[12, 4, d]]
  | .poll => .ok [[9, s.fgCont.code, s.sessionState.code]]

/-- Decode and execute coded words one after another, inside one step. -/
def runWords : List Bytes → State → Result
  | [], s => .next s
  | w :: ws, s =>
    match decode s.cfg w with
    | .instr i [] =>
      match exec i s with
      | .next t => runWords ws t
      | .fault f => .fault f
      | .refused r => .refused r
    | .instr _ (_ :: _) => .refused .undecodable
    | .bad _ => .refused .undecodable

/-- The state as an input finds it: its two levels sampled, the input taken from the script. -/
def State.accept (s : State) (inp : Input) (rest : List Input) : State :=
  { s with addrProgEn := inp.addrProgEn, uartTxEmpty := inp.uartTxEmpty, script := rest }

/-- One input, 20_memory.md R80: one atomic step. -/
def runInput (inp : Input) (rest : List Input) (s : State) : Result :=
  match fetch (s.accept inp rest) inp.event with
  | .ok ws => runWords ws (s.accept inp rest)
  | .error f => .fault f

/-- The step: a configuration that breaks R7 is refused; with no input to come no operation fires and the state
stays (00_scope.md R5, 70_reset_and_hazards.md R332, log entry 5). -/
def stepState (s : State) : Result :=
  if s.cfg.Legal then
    match s.script with
    | [] => .next s
    | inp :: rest => runInput inp rest s
  else .refused .illegalConfiguration

/-! ## Placing one instruction as the next input -/

/-- The next input is this event, with the levels as the state has them. -/
def State.feed (s : State) (e : Event) : State :=
  { s with script := [⟨e, s.addrProgEn, s.uartTxEmpty⟩] }

/-- The next input is a `POLL` at this session state. -/
def State.feedPoll (s : State) (st : SessionState) : State :=
  { s with fgCont := .fgNone, sessionState := st, script := [⟨.poll, s.addrProgEn, s.uartTxEmpty⟩] }

/-- The receive latches and the next byte. -/
def State.feedRx (s : State) (ready : Bool) (st : RxState) (esc : Bool) (b : Byte) : State :=
  { s with pktReady := ready, rxState := st, rxEsc := esc }.feed (.rxByte b)

/-- The transmitter enabled in a state, and a `TX_READY`. -/
def State.feedTx (s : State) (st : TxState) : State :=
  { s with txIrqEn := true, txBusy := true, txState := st }.feed .txReady

/-- A bus event in a phase. -/
def State.feedPhase (s : State) (p : BitVec 4) (d : Byte) : State :=
  { s with i2cBusy := true, i2cPhase := p }.feed (.i2cEvent d)

/-- A received packet of `n` bytes with this control byte, waiting for S_PACKET_READY. -/
def State.feedHeader (s : State) (b : Byte) : State :=
  { s.putPkt 0 b with rxIdx := ovh16, pktReady := true }.feedPoll .packetReady

/-- An exchange at S_RESPOND in this CRC width with this result. -/
def State.feedRespond (s : State) (wide : Bool) (err : Byte) : State :=
  { s with crc16Mode := wide, lastError := err }.feedPoll .respond

/-- A frame in S_DECODE: address, command and parameters, with an 8-bit CRC. -/
def State.feedFrame (s : State) (a c : Byte) (params : Bytes) : State :=
  { s with
    pkt := s.pkt.writeAll .pkt 1 (a :: c :: params)
    crc16Mode := false
    rxIdx := ovh8 + params.length
    pktReady := true }.feedPoll .decode

/-- A notification that is due, in S_START. -/
def State.feedAttempt (s : State) : State :=
  { s with pktReady := false, irqRaised := true, irqTimer := 0, addrProgEn := false }.feedPoll .start

/-- The state made ready for an instruction: what the next input needs so that the next step runs it. A
procedure that only `POLL` calls (the last six rows) is no input of the machine: the next input is a `POLL` that
calls it, with the operands that `POLL` gives it. -/
def State.place (s : State) : Instr → State
  | .rxDrop b => s.feedRx true .finishing false b
  | .rxEscaped b => s.feedRx false .assembling true b
  | .rxStart => s.feedRx false .idle false s.cfg.frameStart
  | .rxIgnore b => s.feedRx false .idle false b
  | .rxEnd => s.feedRx false .assembling false s.cfg.frameEnd
  | .rxEsc => s.feedRx false .assembling false s.cfg.esc
  | .rxData b => s.feedRx false .assembling false b
  | .txStartMark => s.feedTx .idle
  | .txData => { s.putPkt 0 0xFF with txIdx := 0 }.feedTx .sending
  | .txEsc => { s.putPkt 0 s.cfg.esc with txIdx := 0 }.feedTx .sending
  | .txEscaped => s.feedTx .escWait
  | .txEndMark => s.feedTx .done
  | .req8 => s.feedHeader s.cfg.hdrReq8
  | .req16 => s.feedHeader s.cfg.hdrReq16
  | .ack8 => s.feedRespond false s.cfg.errNone
  | .nak8 => s.feedRespond false s.cfg.errBadCmd
  | .ack16 => s.feedRespond true s.cfg.errNone
  | .nak16 => s.feedRespond true s.cfg.errBadCmd
  | .irq16 => s.feedAttempt
  | .hdrOther b => s.feedHeader b
  | .addrBroadcast => s.feedFrame broadcast s.cfg.cmdNop []
  | .addrUnicast a => s.feedFrame a s.cfg.cmdNop []
  | .noOp => s.feedFrame s.nodeAddr s.cfg.cmdNop []
  | .getNodeId => s.feedFrame s.nodeAddr s.cfg.cmdGetNodeId [0, 0, 0, 0]
  | .getCommStatus => s.feedFrame s.nodeAddr s.cfg.cmdGetCommStatus [0, 0, 0]
  | .getIrqPoll => s.feedFrame s.nodeAddr s.cfg.cmdGetIrqPoll [0]
  | .getSetOutput => s.feedFrame s.nodeAddr s.cfg.cmdOutput [0, 0, 0]
  | .getVolts => s.feedFrame s.nodeAddr s.cfg.cmdGetVolts [0, 0, 0, 0, 0, 0, 0, 0]
  | .getCurrent => s.feedFrame s.nodeAddr s.cfg.cmdGetCurrent [0, 0, 0, 0, 0, 0, 0, 0]
  | .getPower => s.feedFrame s.nodeAddr s.cfg.cmdGetPower [0, 0, 0, 0, 0, 0, 0, 0]
  | .getSetShuntConfig => s.feedFrame s.nodeAddr s.cfg.cmdShuntConfig [0, 0, 0, 0]
  | .cmdProgramAddress => { s with addrProgEn := true }.feedFrame s.nodeAddr s.cfg.cmdProgramAddress []
  | .enumerationRequest => s.feedFrame broadcast s.cfg.cmdEnumRequest []
  | .cmdUnknown c => s.feedFrame s.nodeAddr c []
  | .notify => s.feedAttempt
  | .outputClear => s.feedFrame s.nodeAddr s.cfg.cmdOutput [0, 0, 0]
  | .outputSet => s.feedFrame s.nodeAddr s.cfg.cmdOutput [0, 1, 0]
  | .outputRead => s.feedFrame s.nodeAddr s.cfg.cmdOutput [0, 2, 0]
  | .shuntReadConfig => s.feedFrame s.nodeAddr s.cfg.cmdShuntConfig [0, 0, 0, 0]
  | .shuntWriteConfig => s.feedFrame s.nodeAddr s.cfg.cmdShuntConfig [1, 1, 1, 0]
  | .shuntReadCal => s.feedFrame s.nodeAddr s.cfg.cmdShuntConfig [2, 0, 0, 0]
  | .pollSStart => s.feedPoll .start
  | .pollSPacketReady => s.feedPoll .packetReady
  | .pollSDecode => s.feedPoll .decode
  | .pollSRespond => s.feedPoll .respond
  | .pollSTxStart => { s with crc16Mode := false, txLen := ovh8 }.feedPoll .txStart
  | .pollSWaitTx => s.feedPoll .waitTx
  | .pollSWaitDrain => s.feedPoll .waitDrain
  | .pollSFinish => s.feedPoll .finish
  | .pollFgI2cWait =>
    { s.putPkt 2 s.cfg.cmdShuntConfig with fgCont := .fgI2cWait, sessionState := .decode }.feed .poll
  | .i2cPh0 d => s.feedPhase 0 d
  | .i2cPh1 d => s.feedPhase 1 d
  | .i2cPh2 d => s.feedPhase 2 d
  | .i2cPh3 d => s.feedPhase 3 d
  | .i2cPh4 d => s.feedPhase 4 d
  | .i2cPh5 d => s.feedPhase 5 d
  | .i2cPh6 d => s.feedPhase 6 d
  | .i2cPh7 d => s.feedPhase 7 d
  | .i2cPh8 d => s.feedPhase 8 d
  | .i2cIllegal p d => s.feedPhase p d
  | .i2cAddrByte _ .write => s.feedPhase 0 0
  | .i2cAddrByte _ .read => { s with i2cDir := .read }.feedPhase 3 0
  | .rxByte b => s.feed (.rxByte b)
  | .txReady => s.feed .txReady
  | .tickRx => s.feed .tick
  | .tickArb => s.feed .tick
  | .i2cEvent d => s.feed (.i2cEvent d)
  | .poll => s.feed .poll
  | .crc8 _ => { s with crc16Mode := false, txLen := ovh8 }.feedPoll .txStart
  | .crc16 _ _ => { s with crc16Mode := true, txLen := ovh16 }.feedPoll .txStart
  | .i2cBegin .read _ _ => s.feedFrame s.nodeAddr s.cfg.cmdGetVolts [0, 0, 0, 0, 0, 0, 0, 0]
  | .i2cBegin .write _ _ => s.feedFrame s.nodeAddr s.cfg.cmdShuntConfig [1, 1, 1, 0]
  | .reseed => s.feedAttempt
  | .raise _ => s.feedFrame broadcast s.cfg.cmdEnumRequest []
  | .programAddress a => { s with addrProgEn := true }.feedFrame a s.cfg.cmdProgramAddress []

/-- `State.withFetchWord`'s body: the instruction the decoder reads from the table word, made the next input. -/
def placeWord (s : State) (nbits w : Nat) : State :=
  match decodeTableWord nbits w with
  | some i => s.place i
  | none => s

end Sys2Proof.Machine
end

