-- ==== Sys2Proof/Machine/Step.lean ====
section
/-! DEFINITION. The step function, and the placing of one table word where the step takes its next input. -/

namespace Sys2Proof.Machine

/-- One atomic step, 20_memory.md R80. -/
def step (s : State) : Host.Outcome State Fault Refusal := stepState s

/-- The state whose next step runs the instruction of a table word. Log entries 5 and 13. -/
def State.withFetchWord (s : State) (nbits w : Nat) : State := placeWord s nbits w

end Sys2Proof.Machine
end

