-- ==== Sys2Proof/Safety.lean ====
section
/-! DEFINITION. The terms claims are stated in: the traces of 00_scope.md R12, the frame encoding of
30_encoding.md R93, what a store to memory leaves, runs of instructions, and the invariants of a safe run
(41_frame_receiver.md R160, 70_reset_and_hazards.md R316). -/

namespace Sys2Proof.Machine

/-! ## Traces, R12 -/

/-- The byte an output action hands to the serial line. -/
def Output.onWire : Output → Option Byte
  | .uartWrite b => some b
  | .bus _ => none
  | .storeWrite _ _ => none
  | .wdtKick => none
  | .activityPulse => none
  | .outPin _ _ => none

/-- The register-bus action an output action is. -/
def Output.onBus : Output → Option BusAction
  | .uartWrite _ => none
  | .bus a => some a
  | .storeWrite _ _ => none
  | .wdtKick => none
  | .activityPulse => none
  | .outPin _ _ => none

/-- The offset and byte of an output action that writes the store. -/
def Output.onStore : Output → Option (Nat × Byte)
  | .uartWrite _ => none
  | .bus _ => none
  | .storeWrite off v => some (off, v)
  | .wdtKick => none
  | .activityPulse => none
  | .outPin _ _ => none

/-- The wire trace: the `UartWrite` bytes. -/
def State.wireTrace (s : State) : Bytes := s.trace.filterMap Output.onWire

/-- The bus trace: the `Bus*` actions. -/
def State.busTrace (s : State) : List BusAction := s.trace.filterMap Output.onBus

/-- The store trace: the `StoreWrite` calls. -/
def State.storeTrace (s : State) : List (Nat × Byte) := s.trace.filterMap Output.onStore

/-! ## The wire form of a packet, R93 -/

/-- `esc(p)`. -/
def wireByte (c : Cfg) (p : Byte) : Bytes := if p ≤ c.esc then [c.esc, p] else [p]

/-- `Encode(P)`. -/
def wireFrame (c : Cfg) (packet : Bytes) : Bytes :=
  c.frameStart :: (packet.flatMap (wireByte c) ++ [c.frameEnd])

/-! ## Memory -/

/-- `after` is `before` with the bytes `vs` stored from address `a` on: each of them reads back, and every other
address reads as it did. -/
def Stored (sp : Space) (before after : Memory) (a : Nat) (vs : Bytes) : Prop :=
  (∀ (i : Nat) (h : i < vs.length), after.read sp (a + i) = vs[i])
  ∧ ∀ x, x < a ∨ a + vs.length ≤ x → after.read sp x = before.read sp x

/-! ## Runs -/

/-- Instructions one after another, up to the first stop. -/
def execAll : List Instr → State → Result
  | [], s => .next s
  | i :: is, s =>
    match exec i s with
    | .next t => execAll is t
    | .fault f => .fault f
    | .refused r => .refused r

/-! ## Frames in S_DECODE -/

/-- S_DECODE holds a frame with command `x`, no longer than the buffer. -/
abbrev State.decoding (s : State) (x : Byte) : Prop :=
  s.cfg.Legal ∧ s.polls .decode ∧ s.rxIdx ≤ s.cfg.cap ∧ s.pktByte 2 = x

/-- That frame is addressed to this node and address-programming mode is inactive: `Dispatch` runs
(42_session_fsm.md R175). -/
abbrev State.ownCommand (s : State) (x : Byte) : Prop :=
  s.decoding x ∧ s.addrProgEn = false ∧ s.nodeAddr ≠ broadcast ∧ s.pktByte 1 = s.nodeAddr

/-- The rows that run that frame: the event, the session state, the address class, and the rows given. -/
abbrev State.ownRows (s : State) (rows : List Instr) : List Instr :=
  [.poll, .pollSDecode, .addrUnicast s.nodeAddr] ++ rows

/-- A frame that S_PACKET_READY passes on to S_DECODE, 42_session_fsm.md R183. -/
abbrev State.frameGood (s : State) : Prop :=
  (s.pktByte 0 = s.cfg.hdrReq8 ∧ 4 ≤ s.rxIdx ∧ s.rxIdx ≤ s.cfg.cap
    ∧ crc8 s.cfg (s.pktBytes (s.rxIdx - 1)) = s.pktByte (s.rxIdx - 1))
  ∨ (s.pktByte 0 = s.cfg.hdrReq16 ∧ 5 ≤ s.rxIdx ∧ s.rxIdx ≤ s.cfg.cap
    ∧ crc16 s.cfg 0 (s.pktBytes (s.rxIdx - 2))
      = pair (s.pktByte (s.rxIdx - 1)) (s.pktByte (s.rxIdx - 2)))

/-! ## Invariants -/

/-- The states a run from power-up stays in. -/
structure Inv (s : State) : Prop where
  /-- 00_scope.md R7. -/
  cfgLegal : s.cfg.Legal
  /-- The canonical form of the packet buffer. -/
  pktWf : s.pkt.wf .pkt
  /-- 20_memory.md R60: the buffer's indices. -/
  pktInside : ∀ c ∈ s.pkt, c.1 < s.cfg.cap
  /-- The canonical form of the store. -/
  storeWf : s.store.wf .store
  /-- R316: `node_addr <= 254`. -/
  nodeUnicast : s.nodeAddr ≠ broadcast
  /-- R160 (a). -/
  readyFinishing : s.pktReady = true → s.rxState = .finishing
  /-- R160 (b). -/
  rxIdxBound : s.rxIdx ≤ s.cfg.cap + 1
  /-- R160 (c). -/
  timeoutRuns : s.rxState = .assembling → 1 ≤ s.rxTimeout
  /-- R160 (c), 10_state.md R33. -/
  timeoutBound : s.rxTimeout ≤ s.cfg.rxTimeoutTicks
  /-- R316: `tx_irq_en = 1` implies `tx_busy = 1`; both are set and cleared together. -/
  triggerBusy : s.txIrqEn = s.txBusy
  /-- R316. -/
  busyWaits : s.txBusy = true → s.sessionState = .waitTx
  /-- 10_state.md R37. -/
  txCount : s.txBusy = true → s.txIdx + s.txRem = s.txLen
  /-- 20_memory.md R62: while a data byte is due one is left. -/
  txPending : s.txBusy = true → s.txState = .sending ∨ s.txState = .escWait → 1 ≤ s.txRem
  /-- 10_state.md R43. -/
  txLenBound : s.txLen ≤ s.cfg.cap
  /-- 42_session_fsm.md R177: the length holds the CRC. -/
  txStartLen : s.sessionState = .txStart → s.overhead ≤ s.txLen
  /-- R316. -/
  driverWaits : s.lineDriverEn = true ↔ s.sessionState = .waitTx ∨ s.sessionState = .waitDrain
  /-- R316. -/
  heldInDecode : s.fgCont = .fgI2cWait → s.sessionState = .decode
  /-- R316 (reference handlers). -/
  busyHeld : s.i2cBusy = true → s.fgCont = .fgI2cWait
  /-- R316. -/
  phaseLegal : s.i2cPhase ≤ 8
  /-- R316. -/
  raisedReason : s.irqRaised = false ↔ s.irqReason = s.cfg.irqNone
  /-- R316. -/
  exchangeReady : s.sessionState = .packetReady ∨ s.sessionState = .decode ∨ s.sessionState = .respond →
    s.pktReady = true
  /-- 42_session_fsm.md R174: what passed the length check. -/
  exchangeLen : s.sessionState = .decode ∨ s.sessionState = .respond →
    s.overhead ≤ s.rxIdx ∧ s.rxIdx ≤ s.cfg.cap
  /-- 42_session_fsm.md R181: the command in the buffer is the one that waits. -/
  heldCommand : s.fgCont = .fgI2cWait →
    commandOf s.cfg (s.pktByte 2) = .shuntConfig
    ∨ (s.paramLen = 8
      ∧ (commandOf s.cfg (s.pktByte 2) = .getVolts ∨ commandOf s.cfg (s.pktByte 2) = .getCurrent
        ∨ commandOf s.cfg (s.pktByte 2) = .getPower))

end Sys2Proof.Machine
end

