-- ==== Sys2Proof/Certificates/Slice0/Obligations.lean ====
section
/-! DEFINITION. The statements for the provers. Each says what the spec's numbered rules say of the machine; where a
clause rests on a choice of the model, the docstring names the log entry. -/

open Sys2Proof Sys2Proof.Machine

/-! ## Encoding and the step -/

/-- 30_encoding.md R91, R95, R98, R103, with R99's address byte: a few coded words under T0 stand for their rows.
The layout of the words is the model's (log entry 12). -/
def Obligations.CodedWordsStandForTheirRows : Prop :=
  decode T0 [1, 0, 1, 0, 0x81] = .instr (.rxData 0x81) []
  ∧ decode T0 [1, 0, 1, 1, 0x03] = .instr (.rxEscaped 0x03) []
  ∧ decode T0 [1, 1, 1, 1, 0x02] = .instr (.rxDrop 0x02) []
  ∧ decode T0 [2, 2, 0x1A] = .instr .txEsc []
  ∧ decode T0 [2, 2, 0x1B] = .instr .txData []
  ∧ decode T0 [3, 0x82] = .instr .req16 []
  ∧ decode T0 [4, 0xFF] = .instr .addrBroadcast []
  ∧ decode T0 [5, 0x08] = .instr .getSetShuntConfig []
  ∧ decode T0 [5, 0x7F] = .instr (.cmdUnknown 0x7F) []
  ∧ decode T0 [9, 0, 4] = .instr .pollSTxStart []
  ∧ decode T0 [10, 9, 0x55] = .instr (.i2cIllegal 9 0x55) []
  ∧ decode T0 [11, 0x81] = .instr (.i2cAddrByte 0x40 .read) []

/-- Decode and encode agree, for every instruction and every operand, whatever follows the word. The words are the
model's (log entries 12 and 20); the values in them are 30_encoding.md's. -/
def Obligations.DecodeOfEncodeIsTheInstruction : Prop :=
  ∀ (c : Cfg) (i : Instr) (rest : Bytes), c.Legal → i.wellFormed c = true →
    decode c (encode c i ++ rest) = .instr i rest

/-- The decoder gives no ill-formed instruction, 30_encoding.md R90 and R91 (words: log entry 12). -/
def Obligations.DecodedInstructionIsWellFormed : Prop :=
  ∀ (c : Cfg) (w : Bytes) (i : Instr) (rest : Bytes), decode c w = .instr i rest → i.wellFormed c = true

/-- A step runs the decoded instruction: when the next input's event presents one word and the word decodes to
`i`, the step is `exec i` on the state that took the input; a TICK presents its two halves. Fetch and words are
the model's (log entries 5, 12 and 14). -/
def Obligations.StepRunsTheDecodedInstruction : Prop :=
  ∀ (s : State) (inp : Input) (rest : List Input), s.cfg.Legal → s.script = inp :: rest →
    (∀ (w : Bytes) (i : Instr), fetch (s.accept inp rest) inp.event = .ok [w] →
      decode s.cfg w = .instr i [] → step s = exec i (s.accept inp rest))
    ∧ (inp.event = .tick → step s = execAll [.tickRx, .tickArb] (s.accept inp rest))

/-- 00_scope.md R9, 20_memory.md R80: a step is one operation of the table of R9, run on the state that has
sampled the two input levels and taken the input. The pending inputs are the model's (log entry 5). -/
def Obligations.StepIsOneOperation : Prop :=
  ∀ (s : State) (inp : Input) (rest : List Input), s.cfg.Legal → s.script = inp :: rest →
    step s = match inp.event with
      | .rxByte b => exec (.rxByte b) (s.accept inp rest)
      | .txReady => exec .txReady (s.accept inp rest)
      | .tick => execAll [.tickRx, .tickArb] (s.accept inp rest)
      | .i2cEvent d => exec (.i2cEvent d) (s.accept inp rest)
      | .poll => exec .poll (s.accept inp rest)

/-- 00_scope.md R7: a configuration that breaks one of the constraints (a) to (h) is refused. That the step is
what refuses it is log entry 2; (b) and (e) are derived and decided by the spec (D4). -/
def Obligations.IllegalConfigurationIsRefused : Prop :=
  ∀ s : State,
    ¬ (s.cfg.frameStart ≠ s.cfg.frameEnd ∧ s.cfg.frameStart ≠ s.cfg.esc ∧ s.cfg.frameEnd ≠ s.cfg.esc)
    ∨ ¬ (s.cfg.frameStart ≤ s.cfg.esc ∧ s.cfg.frameEnd ≤ s.cfg.esc)
    ∨ ¬ [s.cfg.hdrReq8, s.cfg.hdrReq16, s.cfg.hdrAck8, s.cfg.hdrNak8, s.cfg.hdrAck16, s.cfg.hdrNak16,
          s.cfg.hdrIrq16].Nodup
    ∨ ¬ [s.cfg.cmdNop, s.cfg.cmdGetNodeId, s.cfg.cmdGetCommStatus, s.cfg.cmdGetIrqPoll, s.cfg.cmdOutput,
          s.cfg.cmdGetVolts, s.cfg.cmdGetCurrent, s.cfg.cmdGetPower, s.cfg.cmdShuntConfig,
          s.cfg.cmdProgramAddress, s.cfg.cmdEnumRequest].Nodup
    ∨ ¬ (5 ≤ s.cfg.cap ∧ s.cfg.cap ≤ 254)
    ∨ s.cfg.defaultAddr = 255
    ∨ ¬ ([s.cfg.irqNone, s.cfg.irqAtBoot, s.cfg.irqEnum].Nodup
          ∧ [s.cfg.errNone, s.cfg.errBadCmd, s.cfg.errBadParam].Nodup)
    ∨ s.cfg.rxTimeoutTicks = 0 →
    step s = .refused .illegalConfiguration

/-! ## Frame Receiver -/

/-- 41_frame_receiver.md R150: RX_BYTE runs exactly the row of the first test that holds; it is total, raises no
fault and produces no output action. -/
def Obligations.ReceivedByteRunsTheFirstMatchingRow : Prop :=
  ∀ (s : State) (b : Byte),
    (exec (.rxByte b) s =
      if s.pktReady = true then exec (.rxDrop b) s
      else if s.rxState = .assembling ∧ s.rxEsc = true then exec (.rxEscaped b) s
      else if b = s.cfg.frameStart then exec .rxStart s
      else if s.rxState ≠ .assembling then exec (.rxIgnore b) s
      else if b = s.cfg.frameEnd then exec .rxEnd s
      else if b = s.cfg.esc then exec .rxEsc s
      else exec (.rxData b) s)
    ∧ ∃ t, exec (.rxByte b) s = .next t ∧ t.trace = s.trace

/-- 41_frame_receiver.md R151 and R153, 30_encoding.md R106: a byte received while a packet is ready, or outside a
frame when it is no start marker, changes nothing. The second clause is the spec's decisions D6 and D7. -/
def Obligations.DroppedAndIgnoredBytesChangeNothing : Prop :=
  ∀ (s : State) (b : Byte),
    (s.pktReady = true → ∀ i ∈ [Instr.rxDrop b, .rxByte b], exec i s = .next s)
    ∧ (s.pktReady = false → b ≠ s.cfg.frameStart → s.rxState = .idle ∨ s.rxState = .finishing →
        ∀ i ∈ [Instr.rxIgnore b, .rxByte b], exec i s = .next s)

/-- 41_frame_receiver.md R152: a start marker begins a frame, in any receive state (the spec's decision D8). -/
def Obligations.StartMarkerBeginsAFrame : Prop :=
  ∀ s : State, s.pktReady = false → ¬ (s.rxState = .assembling ∧ s.rxEsc = true) →
    ∀ i ∈ [Instr.rxStart, .rxByte s.cfg.frameStart],
      exec i s = .next { s with
        rxIdx := 0
        rxEsc := false
        rxTimeout := s.cfg.rxTimeoutTicks
        rxState := .assembling }

/-- 41_frame_receiver.md R154 and R156: the end marker latches the packet; the escape byte sets the escape flag
and stores nothing. -/
def Obligations.EndMarkerAndEscapeByte : Prop :=
  ∀ s : State, s.cfg.Legal → s.pktReady = false → s.rxState = .assembling → s.rxEsc = false →
    (∀ i ∈ [Instr.rxEnd, .rxByte s.cfg.frameEnd],
      exec i s = .next { s with rxState := .finishing, pktReady := true })
    ∧ (∀ i ∈ [Instr.rxEsc, .rxByte s.cfg.esc], exec i s = .next { s with rxEsc := true })

/-- 41_frame_receiver.md R155 and R158: the byte after an escape is stored as it is, whatever it is, while
capacity remains; the index counts to CAP + 1 (the spec's decision D5). -/
def Obligations.EscapedByteIsAppended : Prop :=
  ∀ (s : State) (b : Byte), s.pktReady = false → s.rxState = .assembling → s.rxEsc = true →
    ∃ p, (∀ i ∈ [Instr.rxEscaped b, .rxByte b],
        exec i s = .next { s with
          rxEsc := false
          pkt := p
          rxIdx := if s.rxIdx ≤ s.cfg.cap then s.rxIdx + 1 else s.rxIdx })
      ∧ (s.rxIdx < s.cfg.cap → Stored .pkt s.pkt p s.rxIdx [b])
      ∧ (s.cfg.cap ≤ s.rxIdx → p = s.pkt)

/-- 41_frame_receiver.md R157 and R158: a byte that is none of the three control bytes is stored while capacity
remains; the index counts to CAP + 1 (the spec's decision D5). -/
def Obligations.DataByteIsAppended : Prop :=
  ∀ (s : State) (b : Byte), s.pktReady = false → s.rxState = .assembling → s.rxEsc = false →
    b ≠ s.cfg.frameStart → b ≠ s.cfg.frameEnd → b ≠ s.cfg.esc →
    ∃ p, (∀ i ∈ [Instr.rxData b, .rxByte b],
        exec i s = .next { s with
          pkt := p
          rxIdx := if s.rxIdx ≤ s.cfg.cap then s.rxIdx + 1 else s.rxIdx })
      ∧ (s.rxIdx < s.cfg.cap → Stored .pkt s.pkt p s.rxIdx [b])
      ∧ (s.cfg.cap ≤ s.rxIdx → p = s.pkt)

/-- 41_frame_receiver.md R159 and 45_arbitrator.md R245: the two halves of TICK, and that their order does not
matter (the spec's decisions D9 and D16). The premise of the first two clauses is the invariant R160 (c). -/
def Obligations.TickHalves : Prop :=
  ∀ s : State,
    (s.rxState = .assembling → s.rxTimeout = 1 →
      exec .tickRx s = .next { s with
        rxTimeout := 0, rxState := .idle, timeoutCount := s.timeoutCount + 1 })
    ∧ (s.rxState = .assembling → 2 ≤ s.rxTimeout →
      exec .tickRx s = .next { s with rxTimeout := s.rxTimeout - 1 })
    ∧ (s.rxState ≠ .assembling → exec .tickRx s = .next s)
    ∧ (exec .tickArb s = .next { s with irqTimer := if 0 < s.irqTimer then s.irqTimer - 1 else 0 })
    ∧ execAll [.tickRx, .tickArb] s = execAll [.tickArb, .tickRx] s

/-- 41_frame_receiver.md R161: from any state that is not waiting for an escaped byte, a whole wire frame, with
fewer ticks in it than the frame timeout, leaves exactly its packet in the buffer. The spec derives the law; the
premise that no escape is pending is the model's (log entry 29). -/
def Obligations.ReceiverInvertsTheWireForm : Prop :=
  ∀ (s : State) (packet : Bytes) (run : List Instr), s.cfg.Legal → s.pktReady = false →
    ¬ (s.rxState = .assembling ∧ s.rxEsc = true) → packet.length ≤ s.cfg.cap →
    (Instr.rxByte s.cfg.frameStart :: run).filter (fun i => decide (i ≠ .tickRx))
      = (wireFrame s.cfg packet).map .rxByte →
    run.count .tickRx < s.cfg.rxTimeoutTicks →
    ∃ t, execAll (.rxByte s.cfg.frameStart :: run) s = .next t ∧ t.pktReady = true
      ∧ t.rxIdx = packet.length ∧ t.pktBytes packet.length = packet ∧ t.timeoutCount = s.timeoutCount

/-- 41_frame_receiver.md R160 (d), 20_memory.md R82: while a packet is ready no handler event writes the buffer or
a receive register. The second premise is the invariant R160 (a). -/
def Obligations.ReadyPacketIsUntouchedByHandlers : Prop :=
  ∀ (s t : State) (inp : Input) (rest : List Input), s.pktReady = true → s.rxState = .finishing →
    s.script = inp :: rest → inp.event ≠ .poll → step s = .next t →
    t.pkt = s.pkt ∧ t.rxState = s.rxState ∧ t.rxEsc = s.rxEsc ∧ t.rxIdx = s.rxIdx
      ∧ t.rxTimeout = s.rxTimeout ∧ t.pktReady = true

/-! ## Frame Transmitter -/

/-- 43_frame_transmitter.md R200: without its enable TX_READY does nothing; with it, it runs the row of the
transmit state and the next byte, and the row that runs writes exactly one byte to the line. -/
def Obligations.TransmitEventRunsItsRow : Prop :=
  ∀ s : State,
    (s.txIrqEn = false → exec .txReady s = .next s)
    ∧ (s.txIrqEn = true →
        (s.txState = .idle → exec .txReady s = exec .txStartMark s)
        ∧ (s.txState = .sending → s.txIdx < s.cfg.cap →
            exec .txReady s = if s.pktByte s.txIdx ≤ s.cfg.esc then exec .txEsc s else exec .txData s)
        ∧ (s.txState = .escWait → exec .txReady s = exec .txEscaped s)
        ∧ (s.txState = .done → exec .txReady s = exec .txEndMark s)
        ∧ ∀ t, exec .txReady s = .next t → ∃ b, t.trace = s.trace ++ [.uartWrite b])

/-- 43_frame_transmitter.md R201 and R205: the start marker and the end marker. -/
def Obligations.TransmitMarkers : Prop :=
  ∀ s : State, s.txIrqEn = true →
    (s.txState = .idle → ∀ i ∈ [Instr.txStartMark, .txReady],
      exec i s = .next { s with
        txState := if s.txRem = 0 then .done else .sending
        trace := s.trace ++ [.uartWrite s.cfg.frameStart] })
    ∧ (s.txState = .done → ∀ i ∈ [Instr.txEndMark, .txReady],
      exec i s = .next { s with
        txIrqEn := false
        txBusy := false
        txState := .idle
        trace := s.trace ++ [.uartWrite s.cfg.frameEnd] })

/-- 43_frame_transmitter.md R202 to R204: a byte above ESC goes out bare, any other after the escape byte, in two
events. The last premise is 20_memory.md R62: a byte is left while one is due. -/
def Obligations.TransmitDataBytes : Prop :=
  ∀ (s : State) (p : Byte), s.txIrqEn = true → s.txIdx < s.cfg.cap → p = s.pktByte s.txIdx → 1 ≤ s.txRem →
    (s.txState = .sending → s.cfg.esc < p → ∀ i ∈ [Instr.txData, .txReady],
      exec i s = .next { s with
        txIdx := s.txIdx + 1
        txRem := s.txRem - 1
        txState := if s.txRem = 1 then .done else .sending
        trace := s.trace ++ [.uartWrite p] })
    ∧ (s.txState = .sending → p ≤ s.cfg.esc → ∀ i ∈ [Instr.txEsc, .txReady],
      exec i s = .next { s with
        txState := .escWait
        trace := s.trace ++ [.uartWrite s.cfg.esc] })
    ∧ (s.txState = .escWait → ∀ i ∈ [Instr.txEscaped, .txReady],
      exec i s = .next { s with
        txIdx := s.txIdx + 1
        txRem := s.txRem - 1
        txState := if s.txRem = 1 then .done else .sending
        trace := s.trace ++ [.uartWrite p] })

/-- 43_frame_transmitter.md R206, the wire output law, which the spec derives: `2 + n + e` events send exactly the
wire form of the packet. -/
def Obligations.ArmedTransmitterSendsTheWireForm : Prop :=
  ∀ (s : State) (packet : Bytes), s.txIrqEn = true → s.txState = .idle → s.txIdx = 0 →
    1 ≤ s.txRem → s.txRem ≤ s.cfg.cap → packet = s.pktBytes s.txRem →
    ∃ t, execAll (List.replicate
          (2 + packet.length + packet.countP fun p => decide (p ≤ s.cfg.esc)) .txReady) s = .next t
      ∧ t.wireTrace = s.wireTrace ++ wireFrame s.cfg packet
      ∧ t.txIrqEn = false ∧ t.txBusy = false ∧ t.txState = .idle

/-! ## I2C Transaction Engine -/

/-- 44_i2c_engine.md R216 (the spec's decisions D25 and D27), and R231 for a call while a transaction is in
flight: the model's refusal is log entry 16. -/
def Obligations.TransactionBegins : Prop :=
  ∀ (s : State) (dir : Dir) (reg : Byte) (val : Half),
    (s.i2cBusy = false → exec (.i2cBegin dir reg val) s = .next { s with
      i2cDir := dir
      i2cReg := reg
      i2cVal := if dir = .write then val else s.i2cVal
      i2cErr := false
      i2cPhase := 0
      i2cBusy := true
      trace := s.trace ++ [.bus .start] })
    ∧ (s.i2cBusy = true → exec (.i2cBegin dir reg val) s = .refused .i2cBeginWhileBusy)

/-- 44_i2c_engine.md R217: the event acts only while the engine is busy, runs the row of its cursor then, and uses
its operand in PH5 and PH7 only (the spec's decision D26). -/
def Obligations.BusEventRunsThePhase : Prop :=
  ∀ (s : State) (d d' : Byte),
    (s.i2cBusy = false → exec (.i2cEvent d) s = .next s)
    ∧ (s.i2cBusy = true → exec (.i2cEvent d) s = exec (phaseInstr s.i2cPhase d) s)
    ∧ (s.i2cPhase ≠ 5 → s.i2cPhase ≠ 7 → exec (.i2cEvent d) s = exec (.i2cEvent d') s)

/-- 44_i2c_engine.md R218 and R219: the device address with the write direction, then the register pointer. The
place of the direction bit is presumed by the spec (30_encoding.md R99; log entry 20). -/
def Obligations.AddressAndPointerPhases : Prop :=
  ∀ (s : State) (d : Byte), s.i2cBusy = true →
    (s.i2cPhase = 0 → ∀ i ∈ [Instr.i2cPh0 d, .i2cEvent d, .i2cAddrByte s.cfg.i2cDevAddr .write],
      exec i s = .next { s with
        i2cPhase := 1
        trace := s.trace ++ [.bus (.send (s.cfg.i2cDevAddr ++ (0 : BitVec 1)))] })
    ∧ (s.i2cPhase = 1 → ∀ i ∈ [Instr.i2cPh1 d, .i2cEvent d],
      exec i s = .next { s with
        i2cPhase := 2
        trace := s.trace ++ [.bus (.send s.i2cReg)] })

/-- 44_i2c_engine.md R220 to R222: the three phases that branch on the direction. The place of the read bit is
presumed by the spec (30_encoding.md R99; log entry 20). -/
def Obligations.DirectionPhases : Prop :=
  ∀ (s : State) (d : Byte), s.i2cBusy = true →
    (s.i2cPhase = 2 → ∀ i ∈ [Instr.i2cPh2 d, .i2cEvent d],
      exec i s = .next { s with
        i2cPhase := 3
        trace := s.trace ++ [.bus (if s.i2cDir = .write then .send (s.i2cVal.extractLsb' 8 8) else .restart)] })
    ∧ (s.i2cPhase = 3 → ∀ i ∈ [Instr.i2cPh3 d, .i2cEvent d],
      exec i s = .next { s with
        i2cPhase := 4
        trace := s.trace ++ [.bus (.send (if s.i2cDir = .write then s.i2cVal.extractLsb' 0 8
          else s.cfg.i2cDevAddr ++ (1 : BitVec 1)))] })
    ∧ (s.i2cPhase = 4 → s.i2cDir = .write → ∀ i ∈ [Instr.i2cPh4 d, .i2cEvent d],
      exec i s = .next { s with
        i2cBusy := false
        i2cPhase := 0
        trace := s.trace ++ [.bus .stop] })
    ∧ (s.i2cPhase = 4 → s.i2cDir = .read → ∀ i ∈ [Instr.i2cPh4 d, .i2cEvent d],
      exec i s = .next { s with
        i2cPhase := 5
        trace := s.trace ++ [.bus .rxEnable] })

/-- 44_i2c_engine.md R223 to R226: capture high byte, acknowledge, capture low byte, stop. That the clauses hold
for a write too, which no run takes there, is log entry 17. -/
def Obligations.CapturePhases : Prop :=
  ∀ (s : State) (d : Byte), s.i2cBusy = true →
    (s.i2cPhase = 5 → ∀ i ∈ [Instr.i2cPh5 d, .i2cEvent d],
      exec i s = .next { s with
        i2cVal := d ++ s.i2cVal.extractLsb' 0 8
        i2cPhase := 6
        trace := s.trace ++ [.bus .ack] })
    ∧ (s.i2cPhase = 6 → ∀ i ∈ [Instr.i2cPh6 d, .i2cEvent d],
      exec i s = .next { s with
        i2cPhase := 7
        trace := s.trace ++ [.bus .rxEnable] })
    ∧ (s.i2cPhase = 7 → ∀ i ∈ [Instr.i2cPh7 d, .i2cEvent d],
      exec i s = .next { s with
        i2cVal := s.i2cVal.extractLsb' 8 8 ++ d
        i2cPhase := 8 })
    ∧ (s.i2cPhase = 8 → ∀ i ∈ [Instr.i2cPh8 d, .i2cEvent d],
      exec i s = .next { s with
        i2cBusy := false
        i2cPhase := 0
        trace := s.trace ++ [.bus .stop] })

/-- 44_i2c_engine.md R227 and R230: an illegal cursor goes back to PH0, the engine stays busy, no bus action; the
error flag only under the policy that sets it (the spec's decision D27). -/
def Obligations.IllegalCursorResets : Prop :=
  ∀ (s : State) (d : Byte), s.i2cBusy = true → 9 ≤ s.i2cPhase →
    ∀ i ∈ [Instr.i2cIllegal s.i2cPhase d, .i2cEvent d],
      exec i s = .next { s with
        i2cPhase := 0
        i2cErr := if s.cfg.i2cErrPolicy = .onIllegalCursor then true else s.i2cErr }

/-- 30_encoding.md R99, with R221: the address byte of the second bus phase, on the row of its own. The place of
the read bit is presumed by the spec (log entry 20). -/
def Obligations.ReadAddressByte : Prop :=
  ∀ s : State, s.i2cBusy = true → s.i2cPhase = 3 → s.i2cDir = .read →
    exec (.i2cAddrByte s.cfg.i2cDevAddr .read) s = .next { s with
      i2cPhase := 4
      trace := s.trace ++ [.bus (.send (s.cfg.i2cDevAddr ++ (1 : BitVec 1)))] }

/-- 44_i2c_engine.md R229, the phase completeness law, which the spec derives: nine events for a read, five for a
write, busy until the last, with their bus actions and the value read. The place of the direction bit: log entry
20. -/
def Obligations.TransactionRunsItsPhases : Prop :=
  ∀ (s : State) (reg : Byte) (val : Half) (ds : Bytes), s.i2cBusy = false →
    (ds.length = 9 →
      execAll (.i2cBegin .read reg val :: ds.map .i2cEvent) s = .next { s with
        i2cDir := .read
        i2cReg := reg
        i2cVal := ds.getD 5 0 ++ ds.getD 7 0
        i2cErr := false
        i2cPhase := 0
        i2cBusy := false
        trace := s.trace ++ [BusAction.start, .send (addrByte s.cfg.i2cDevAddr .write), .send reg, .restart,
          .send (addrByte s.cfg.i2cDevAddr .read), .rxEnable, .ack, .rxEnable, .stop].map .bus })
    ∧ (ds.length ≤ 8 → ∃ t, execAll (.i2cBegin .read reg val :: ds.map .i2cEvent) s = .next t
        ∧ t.i2cBusy = true ∧ t.i2cPhase = BitVec.ofNat 4 ds.length)
    ∧ (ds.length = 5 →
      execAll (.i2cBegin .write reg val :: ds.map .i2cEvent) s = .next { s with
        i2cDir := .write
        i2cReg := reg
        i2cVal := val
        i2cErr := false
        i2cPhase := 0
        i2cBusy := false
        trace := s.trace ++ [BusAction.start, .send (addrByte s.cfg.i2cDevAddr .write), .send reg,
          .send (hiByte val), .send (loByte val), .stop].map .bus })
    ∧ (ds.length ≤ 4 → ∃ t, execAll (.i2cBegin .write reg val :: ds.map .i2cEvent) s = .next t
        ∧ t.i2cBusy = true ∧ t.i2cPhase = BitVec.ofNat 4 ds.length)

/-! ## Protocol Session FSM -/

/-- 42_session_fsm.md R170: POLL runs the hold, or the row of its state. -/
def Obligations.PollRunsTheRowOfItsState : Prop :=
  ∀ s : State, exec .poll s =
    if s.fgCont = .fgI2cWait then exec .pollFgI2cWait s
    else match s.sessionState with
      | .start => exec .pollSStart s
      | .packetReady => exec .pollSPacketReady s
      | .decode => exec .pollSDecode s
      | .respond => exec .pollSRespond s
      | .txStart => exec .pollSTxStart s
      | .waitTx => exec .pollSWaitTx s
      | .waitDrain => exec .pollSWaitDrain s
      | .finish => exec .pollSFinish s

/-- 42_session_fsm.md R171: the transition table; no other transition is possible. The premise is the invariant
`heldInDecode` (70_reset_and_hazards.md R316). -/
def Obligations.SessionTransitions : Prop :=
  ∀ s t : State, s.cfg.Legal → (s.fgCont = .fgI2cWait → s.sessionState = .decode) →
    exec .poll s = .next t →
    match s.sessionState with
    | .start =>
      (t.sessionState = .packetReady ∧ s.pktReady = true)
      ∨ (t.sessionState = .txStart ∧ s.pktReady = false ∧ s.attemptDue)
      ∨ (t.sessionState = .start ∧ s.pktReady = false ∧ ¬ s.attemptDue)
    | .packetReady =>
      (t.sessionState = .decode ∧ s.frameGood) ∨ (t.sessionState = .finish ∧ ¬ s.frameGood)
    | .decode =>
      (t.sessionState = .respond ∧
        (s.fgCont = .fgI2cWait
        ∨ (s.addrProgEn = true ∧ s.pktByte 2 = s.cfg.cmdProgramAddress ∧ s.pktByte 1 ≠ broadcast)
        ∨ (s.addrProgEn = false ∧ s.pktByte 1 = s.nodeAddr ∧ s.pktByte 1 ≠ broadcast)))
      ∨ (t.sessionState = .finish ∧ s.fgCont = .fgNone ∧
        ((s.addrProgEn = true ∧ ¬ (s.pktByte 2 = s.cfg.cmdProgramAddress ∧ s.pktByte 1 ≠ broadcast))
        ∨ (s.addrProgEn = false ∧ (s.pktByte 1 = broadcast ∨ s.pktByte 1 ≠ s.nodeAddr))))
      ∨ (t.sessionState = .decode ∧ t.fgCont = .fgI2cWait)
    | .respond => t.sessionState = .txStart
    | .txStart => t.sessionState = .waitTx
    | .waitTx => t.sessionState = if s.txBusy = false then .waitDrain else .waitTx
    | .waitDrain => t.sessionState = if s.uartTxEmpty = true then .finish else .waitDrain
    | .finish => t.sessionState = .start

/-- 42_session_fsm.md R173 with 45_arbitrator.md R242 and R244: a ready frame first, else a due notification, else
nothing. The packet's content and the seed are the spec's decisions D15 and D17; that the CRC-8 register holds the
last result is log entry 24, that the engine emits no WdtKick is log entry 6. -/
def Obligations.StartSelectsFrameOrNotification : Prop :=
  ∀ s : State, s.cfg.Legal → s.polls .start →
    (s.pktReady = true → ∀ i ∈ [Instr.poll, .pollSStart],
      exec i s = .next { s with sessionState := .packetReady })
    ∧ (s.pktReady = false → s.irqRaised = true ∧ s.irqTimer = 0 ∧ s.addrProgEn = false →
        ∃ p, (∀ i ∈ [Instr.poll, .pollSStart, .irq16, .notify],
            exec i s = .next { s with
              pkt := p
              txLen := 5
              crc16Mode := true
              crc8Reg := crc8 s.cfg [s.irqHoldoff.setWidth 8]
              irqHoldoff := (crc8 s.cfg [s.irqHoldoff.setWidth 8]).extractLsb' 0 5
              irqTimer := (crc8 s.cfg [s.irqHoldoff.setWidth 8]).extractLsb' 0 5
              sessionState := .txStart })
          ∧ Stored .pkt s.pkt p 0 [s.cfg.hdrIrq16, s.nodeAddr, s.cfg.notifyCmd])
    ∧ (s.pktReady = false → ¬ (s.irqRaised = true ∧ s.irqTimer = 0 ∧ s.addrProgEn = false) →
        ∀ i ∈ [Instr.poll, .pollSStart], exec i s = .next s)

/-- 42_session_fsm.md R174: header, then length, then CRC, in that order; only a CRC mismatch is counted. The
lower length bound is the spec's decision D12; that the CRC registers hold the last result is log entry 24, that
the engine emits no WdtKick is log entry 6. -/
def Obligations.PacketReadyValidates : Prop :=
  ∀ s : State, s.cfg.Legal → s.polls .packetReady →
    (s.rxIdx = 0 ∨ (s.pktByte 0 ≠ s.cfg.hdrReq8 ∧ s.pktByte 0 ≠ s.cfg.hdrReq16) →
      ∀ i ∈ [Instr.poll, .pollSPacketReady], exec i s = .next { s with sessionState := .finish })
    ∧ (1 ≤ s.rxIdx → s.pktByte 0 = s.cfg.hdrReq8 → ∀ i ∈ [Instr.poll, .pollSPacketReady, .req8],
      exec i s = .next (
        if s.rxIdx > s.cfg.cap ∨ s.rxIdx < 4 then
          { s with crc16Mode := false, sessionState := .finish }
        else if crc8 s.cfg (s.pktBytes (s.rxIdx - 1)) = s.pktByte (s.rxIdx - 1) then
          { s with
            crc16Mode := false
            crc8Reg := crc8 s.cfg (s.pktBytes (s.rxIdx - 1))
            sessionState := .decode }
        else
          { s with
            crc16Mode := false
            crc8Reg := crc8 s.cfg (s.pktBytes (s.rxIdx - 1))
            crcErrCount := s.crcErrCount + 1
            sessionState := .finish }))
    ∧ (1 ≤ s.rxIdx → s.pktByte 0 = s.cfg.hdrReq16 → ∀ i ∈ [Instr.poll, .pollSPacketReady, .req16],
      exec i s = .next (
        if s.rxIdx > s.cfg.cap ∨ s.rxIdx < 5 then
          { s with crc16Mode := true, sessionState := .finish }
        else if crc16 s.cfg 0 (s.pktBytes (s.rxIdx - 2))
            = s.pktByte (s.rxIdx - 1) ++ s.pktByte (s.rxIdx - 2) then
          { s with
            crc16Mode := true
            crc16Reg := crc16 s.cfg 0 (s.pktBytes (s.rxIdx - 2))
            sessionState := .decode }
        else
          { s with
            crc16Mode := true
            crc16Reg := crc16 s.cfg 0 (s.pktBytes (s.rxIdx - 2))
            crcErrCount := s.crcErrCount + 1
            sessionState := .finish }))

/-- 60_exceptions.md R282, 30_encoding.md R104: a received control byte that is no request variant is abandoned
without a response and without a counter change, whichever of its rows runs. -/
def Obligations.WrongHeaderIsAbandoned : Prop :=
  ∀ (s : State) (b : Byte), s.cfg.Legal → s.polls .packetReady → 1 ≤ s.rxIdx → s.pktByte 0 = b →
    b ≠ s.cfg.hdrReq8 → b ≠ s.cfg.hdrReq16 →
    ∀ i ∈ [Instr.poll, .pollSPacketReady, (controlOf s.cfg b).instr b],
      exec i s = .next { s with sessionState := .finish }

/-- 42_session_fsm.md R175 and R182, 60_exceptions.md R287: a frame for neither this node nor 255 is abandoned;
neither such a frame nor one for 255 makes any output, and both are back in S_START two polls later (the spec's
derivation R182). -/
def Obligations.PrivacyAndBroadcastSilence : Prop :=
  ∀ (s : State) (x : Byte), s.decoding x → s.addrProgEn = false →
    (s.pktByte 1 ≠ s.nodeAddr → s.pktByte 1 ≠ broadcast →
      (∀ i ∈ [Instr.poll, .pollSDecode, .addrUnicast (s.pktByte 1), (commandOf s.cfg x).instr x],
        exec i s = .next { s with sessionState := .finish })
      ∧ execAll [.poll, .poll] s = .next { s with pktReady := false, sessionState := .start })
    ∧ (s.pktByte 1 = broadcast → ∃ t, execAll [.poll, .poll] s = .next t
        ∧ t.trace = s.trace ∧ t.lineDriverEn = s.lineDriverEn ∧ t.txIrqEn = s.txIrqEn
        ∧ t.pktReady = false ∧ t.sessionState = .start)

/-- 46_command_dispatch.md R269 and R270, 45_arbitrator.md R243: broadcast, the enumeration request raises its
reason and every other command has no effect at all (the spec's decisions D16 and D20). -/
def Obligations.BroadcastCommands : Prop :=
  ∀ (s : State) (x : Byte), s.decoding x → s.addrProgEn = false → s.pktByte 1 = broadcast →
    ∀ i ∈ [Instr.poll, .pollSDecode, .addrBroadcast, (commandOf s.cfg x).instr x],
      exec i s = .next (
        if x = s.cfg.cmdEnumRequest then
          { s with
            irqReason := s.cfg.irqEnum
            irqRaised := true
            irqTimer := s.irqHoldoff
            sessionState := .finish }
        else { s with sessionState := .finish })

/-- 42_session_fsm.md R175, 60_exceptions.md R297 and E8: in address-programming mode a program-address command
for an address other than 255 is accepted, stored and answered; any other frame is abandoned (the spec's decision
D19). -/
def Obligations.AddressProgrammingMode : Prop :=
  ∀ (s : State) (x a : Byte), s.decoding x → s.addrProgEn = true → s.pktByte 1 = a →
    (x = s.cfg.cmdProgramAddress → a ≠ broadcast →
      ∃ q, (∀ i ∈ [Instr.poll, .pollSDecode, .addrUnicast a, .cmdProgramAddress],
          exec i s = .next { s with
            nodeAddr := a
            store := q
            trace := s.trace ++ [.storeWrite s.cfg.addrOffset a]
            lastError := s.cfg.errNone
            sessionState := .respond })
        ∧ Stored .store s.store q s.cfg.addrOffset [a])
    ∧ (x ≠ s.cfg.cmdProgramAddress ∨ a = broadcast →
      ∀ i ∈ [Instr.poll, .pollSDecode, if a = broadcast then .addrBroadcast else .addrUnicast a,
          (commandOf s.cfg x).instr x],
        exec i s = .next { s with sessionState := .finish })

/-! ## Command Dispatch -/

/-- 46_command_dispatch.md R257 and R268, 30_encoding.md R105: an unknown code, a unicast enumeration request, and
program-address outside its mode are bad commands; nothing but the result changes. -/
def Obligations.BadCommandIsAnsweredNegatively : Prop :=
  ∀ (s : State) (x : Byte), s.ownCommand x →
    x ∉ s.cfg.commands ∨ x = s.cfg.cmdEnumRequest ∨ x = s.cfg.cmdProgramAddress →
    ∀ i ∈ s.ownRows [(commandOf s.cfg x).instr x],
      exec i s = .next { s with lastError := s.cfg.errBadCmd, sessionState := .respond }

/-- 46_command_dispatch.md R258 with the counts of 30_encoding.md R98: a parameter count other than the table's is
a parameter error and nothing else changes (the spec's decision D22). -/
def Obligations.WrongParameterCount : Prop :=
  ∀ (s : State) (x : Byte) (row : Instr) (n : Nat),
    (x, row, n) ∈
      [(s.cfg.cmdNop, Instr.noOp, 0), (s.cfg.cmdGetNodeId, .getNodeId, 4),
       (s.cfg.cmdGetCommStatus, .getCommStatus, 3), (s.cfg.cmdGetIrqPoll, .getIrqPoll, 1),
       (s.cfg.cmdOutput, .getSetOutput, 3), (s.cfg.cmdGetVolts, .getVolts, 8),
       (s.cfg.cmdGetCurrent, .getCurrent, 8), (s.cfg.cmdGetPower, .getPower, 8),
       (s.cfg.cmdShuntConfig, .getSetShuntConfig, 4)] →
    s.ownCommand x → s.paramLen ≠ n →
    ∀ i ∈ s.ownRows [row],
      exec i s = .next { s with lastError := s.cfg.errBadParam, sessionState := .respond }

/-- 46_command_dispatch.md R259. -/
def Obligations.NoOpCommand : Prop :=
  ∀ s : State, s.ownCommand s.cfg.cmdNop → ∀ i ∈ s.ownRows [.noOp],
    exec i s = .next { s with
      lastError := if s.paramLen = 0 then s.cfg.errNone else s.cfg.errBadParam
      sessionState := .respond }

/-- 46_command_dispatch.md R260: module identifier and version; the places of their bytes are the spec's decision
D24. -/
def Obligations.GetNodeIdCommand : Prop :=
  ∀ s : State, s.ownCommand s.cfg.cmdGetNodeId →
    (s.paramLen ≠ 4 → ∀ i ∈ s.ownRows [.getNodeId],
      exec i s = .next { s with lastError := s.cfg.errBadParam, sessionState := .respond })
    ∧ (s.paramLen = 4 →
      ∃ p, (∀ i ∈ s.ownRows [.getNodeId],
          exec i s = .next { s with pkt := p, lastError := s.cfg.errNone, sessionState := .respond })
        ∧ Stored .pkt s.pkt p 3
          [s.cfg.moduleId.extractLsb' 0 8, s.cfg.moduleId.extractLsb' 8 8,
           s.cfg.fwVersion.extractLsb' 0 8, s.cfg.fwVersion.extractLsb' 8 8])

/-- 46_command_dispatch.md R261: the counters as they stood, then the clear; their places are the spec's decision
D24. -/
def Obligations.GetCommStatusCommand : Prop :=
  ∀ s : State, s.ownCommand s.cfg.cmdGetCommStatus →
    (s.paramLen ≠ 3 → ∀ i ∈ s.ownRows [.getCommStatus],
      exec i s = .next { s with lastError := s.cfg.errBadParam, sessionState := .respond })
    ∧ (s.paramLen = 3 →
      ∃ p, (∀ i ∈ s.ownRows [.getCommStatus],
          exec i s = .next { s with
            pkt := p
            crcErrCount := if s.pktByte 3 ≠ 0 then 0 else s.crcErrCount
            timeoutCount := if s.pktByte 3 ≠ 0 then 0 else s.timeoutCount
            lastError := s.cfg.errNone
            sessionState := .respond })
        ∧ Stored .pkt s.pkt p 4 [s.crcErrCount, s.timeoutCount])

/-- 46_command_dispatch.md R262, 45_arbitrator.md R246: the pending reason is returned and cleared; holdoff and
timer stay. -/
def Obligations.GetIrqPollCommand : Prop :=
  ∀ s : State, s.ownCommand s.cfg.cmdGetIrqPoll →
    (s.paramLen ≠ 1 → ∀ i ∈ s.ownRows [.getIrqPoll],
      exec i s = .next { s with lastError := s.cfg.errBadParam, sessionState := .respond })
    ∧ (s.paramLen = 1 →
      ∃ p, (∀ i ∈ s.ownRows [.getIrqPoll],
          exec i s = .next { s with
            pkt := p
            irqReason := s.cfg.irqNone
            irqRaised := false
            lastError := s.cfg.errNone
            sessionState := .respond })
        ∧ Stored .pkt s.pkt p 3 [s.irqReason])

/-- 46_command_dispatch.md R263, 00_scope.md R11: a write drives the pin and holds its level, a read returns the
held level. That one write is both is log entry 23. -/
def Obligations.OutputCommand : Prop :=
  ∀ (s : State) (ch sub z : Byte), s.ownCommand s.cfg.cmdOutput →
    ch = s.pktByte 3 → sub = s.pktByte 4 → z = s.pktByte 5 →
    (s.paramLen ≠ 3 ∨ ch > 1 ∨ sub > 2 ∨ (sub ≠ 2 ∧ z ≠ 0) → ∀ i ∈ s.ownRows [.getSetOutput],
      exec i s = .next { s with lastError := s.cfg.errBadParam, sessionState := .respond })
    ∧ (s.paramLen = 3 → ch ≤ 1 → sub ≤ 1 → z = 0 →
      ∀ i ∈ s.ownRows [.getSetOutput, if sub = 0 then .outputClear else .outputSet],
        exec i s = .next { s with
          out0 := if ch = 0 then sub.getLsbD 0 else s.out0
          out1 := if ch = 1 then sub.getLsbD 0 else s.out1
          lastError := s.cfg.errNone
          sessionState := .respond
          trace := s.trace ++ [.outPin ch (sub.getLsbD 0)] })
    ∧ (s.paramLen = 3 → ch ≤ 1 → sub = 2 →
      ∃ p, (∀ i ∈ s.ownRows [.getSetOutput, .outputRead],
          exec i s = .next { s with pkt := p, lastError := s.cfg.errNone, sessionState := .respond })
        ∧ Stored .pkt s.pkt p 5 [if (if ch = 0 then s.out0 else s.out1) = true then 1 else 0])

/-- 46_command_dispatch.md R271 with R264 to R266 and 42_session_fsm.md R181: a telemetry command starts a read of
its register and holds the foreground; when the engine is done it answers with exponent, raw value and scale, low
byte first, and leaves the eighth byte (the spec's decisions D24 and D31). Which command resumes is read from the
buffer (log entry 15); `telExp` and `telScale` are open functions (log entry 3). -/
def Obligations.TelemetryCommands : Prop :=
  ∀ (s : State) (x reg : Byte) (row : Instr) (k : Quantity), s.decoding x →
    (x, reg, row, k) ∈
      [(s.cfg.cmdGetVolts, s.cfg.regBusv, Instr.getVolts, Quantity.volts),
       (s.cfg.cmdGetCurrent, s.cfg.regCurrent, .getCurrent, .current),
       (s.cfg.cmdGetPower, s.cfg.regPower, .getPower, .power)] →
    (s.ownCommand x → s.paramLen ≠ 8 → ∀ i ∈ s.ownRows [row],
      exec i s = .next { s with lastError := s.cfg.errBadParam, sessionState := .respond })
    ∧ (s.ownCommand x → s.paramLen = 8 → s.i2cBusy = false → ∀ i ∈ s.ownRows [row],
      exec i s = .next { s with
        i2cDir := .read
        i2cReg := reg
        i2cErr := false
        i2cPhase := 0
        i2cBusy := true
        fgCont := .fgI2cWait
        trace := s.trace ++ [.bus .start] })
    ∧ (∀ h : State, h = { s with fgCont := .fgI2cWait } → s.paramLen = 8 → s.i2cBusy = false →
      ∃ p, (∀ i ∈ [Instr.poll, .pollFgI2cWait],
          exec i h = .next { s with
            pkt := p
            lastError := s.cfg.errNone
            sessionState := .respond
            trace := s.trace ++ [.wdtKick] })
        ∧ Stored .pkt s.pkt p 3
          [telExp s.cfg k, s.i2cVal.extractLsb' 0 8, s.i2cVal.extractLsb' 8 8,
           (telScale s.cfg k s.cfgVrating s.cfgIrating).extractLsb' 0 8,
           (telScale s.cfg k s.cfgVrating s.cfgIrating).extractLsb' 8 8,
           (telScale s.cfg k s.cfgVrating s.cfgIrating).extractLsb' 16 8,
           (telScale s.cfg k s.cfgVrating s.cfgIrating).extractLsb' 24 8])
    ∧ telScale s.cfg .power s.cfgVrating s.cfgIrating
        = 25 * telScale s.cfg .current s.cfgVrating s.cfgIrating

/-- 46_command_dispatch.md R267, the two reading sub-commands and the errors; the bytes' places are the spec's
decision D24. -/
def Obligations.ShuntConfigReads : Prop :=
  ∀ (s : State) (sub : Byte), s.ownCommand s.cfg.cmdShuntConfig → sub = s.pktByte 3 →
    (s.paramLen ≠ 4 ∨ sub > 2 → ∀ i ∈ s.ownRows [.getSetShuntConfig],
      exec i s = .next { s with lastError := s.cfg.errBadParam, sessionState := .respond })
    ∧ (s.paramLen = 4 → sub = 0 →
      ∃ p, (∀ i ∈ s.ownRows [.getSetShuntConfig, .shuntReadConfig],
          exec i s = .next { s with pkt := p, lastError := s.cfg.errNone, sessionState := .respond })
        ∧ Stored .pkt s.pkt p 4
          [s.cfgVrating, s.cfgIrating.extractLsb' 0 8, s.cfgIrating.extractLsb' 8 8])
    ∧ (s.paramLen = 4 → sub = 2 →
      ∃ p, (∀ i ∈ s.ownRows [.getSetShuntConfig, .shuntReadCal],
          exec i s = .next { s with pkt := p, lastError := s.cfg.errNone, sessionState := .respond })
        ∧ Stored .pkt s.pkt p 4 [s.cfgCal.extractLsb' 0 8, s.cfgCal.extractLsb' 8 8])

/-- 46_command_dispatch.md R267, the write: ratings in bounds are taken, persisted and pushed to the bus device
before the answer; any other leaves everything as it was (the spec's decisions D24 and D39). `calConst` is an open
function of which only U17's constraint is known (log entry 3); which command resumes is read from the buffer (log
entry 15); that it makes one transaction is log entry 22. -/
def Obligations.ShuntConfigWrite : Prop :=
  ∀ (s : State) (v : Byte) (r : Half), s.decoding s.cfg.cmdShuntConfig →
    v = s.pktByte 4 → r = s.pktByte 6 ++ s.pktByte 5 →
    (s.ownCommand s.cfg.cmdShuntConfig → s.paramLen = 4 → s.pktByte 3 = 1 →
      v < 1 ∨ v > 80 ∨ r < 1 ∨ r > 200 →
      ∀ i ∈ s.ownRows [.getSetShuntConfig, .shuntWriteConfig],
        exec i s = .next { s with lastError := s.cfg.errBadParam, sessionState := .respond })
    ∧ (s.ownCommand s.cfg.cmdShuntConfig → s.paramLen = 4 → s.pktByte 3 = 1 → s.i2cBusy = false →
      1 ≤ v → v ≤ 80 → 1 ≤ r → r ≤ 200 →
      ∃ q, (∀ i ∈ s.ownRows [.getSetShuntConfig, .shuntWriteConfig],
          exec i s = .next { s with
            cfgVrating := v
            cfgIrating := r
            cfgCal := calConst s.cfg v r
            store := q
            i2cDir := .write
            i2cReg := s.cfg.regCal
            i2cVal := calConst s.cfg v r
            i2cErr := false
            i2cPhase := 0
            i2cBusy := true
            fgCont := .fgI2cWait
            trace := s.trace ++
              [.storeWrite s.cfg.cfgOffset (s.cfg.cfgSignature.extractLsb' 0 8),
               .storeWrite (s.cfg.cfgOffset + 1) (s.cfg.cfgSignature.extractLsb' 8 8),
               .storeWrite (s.cfg.cfgOffset + 2) v,
               .storeWrite (s.cfg.cfgOffset + 3) 0,
               .storeWrite (s.cfg.cfgOffset + 4) (r.extractLsb' 0 8),
               .storeWrite (s.cfg.cfgOffset + 5) (r.extractLsb' 8 8),
               .bus .start] })
        ∧ Stored .store s.store q s.cfg.cfgOffset
          [s.cfg.cfgSignature.extractLsb' 0 8, s.cfg.cfgSignature.extractLsb' 8 8, v, 0,
           r.extractLsb' 0 8, r.extractLsb' 8 8])
    ∧ (s.i2cBusy = false → ∀ h : State, h = { s with fgCont := .fgI2cWait } →
      ∀ i ∈ [Instr.poll, .pollFgI2cWait],
        exec i h = .next { s with
          lastError := s.cfg.errNone
          sessionState := .respond
          trace := s.trace ++ [.wdtKick] })
    ∧ calConst s.cfg 50 100 ≠ 0

/-- 42_session_fsm.md R181: while the bus transaction runs, a poll of the hold only services the watchdog (the
spec's decision D31). -/
def Obligations.HoldServicesTheWatchdog : Prop :=
  ∀ s : State, s.fgCont = .fgI2cWait → s.i2cBusy = true →
    ∀ i ∈ [Instr.poll, .pollFgI2cWait], exec i s = .next { s with trace := s.trace ++ [.wdtKick] }

/-- 46_command_dispatch.md R268, the procedure: the address is taken and persisted; 255 is outside its operands
(refused by the model: log entry 19). -/
def Obligations.ProgramAddressPersists : Prop :=
  ∀ (s : State) (a : Byte),
    (a ≠ broadcast →
      ∃ q, exec (.programAddress a) s = .next { s with
            nodeAddr := a
            store := q
            trace := s.trace ++ [.storeWrite s.cfg.addrOffset a] }
        ∧ Stored .store s.store q s.cfg.addrOffset [a])
    ∧ (a = broadcast → exec (.programAddress a) s = .refused .programAddressBroadcast)

/-! ## Answer and transmission -/

/-- 42_session_fsm.md R176: the acknowledgement variant of the CRC width and the result, and the received length
(the spec's decision D21). -/
def Obligations.RespondSelectsTheVariant : Prop :=
  ∀ s : State, s.cfg.Legal → s.polls .respond →
    ∀ (h : Byte) (row : Instr),
      (h, row) = (if s.crc16Mode = true then
          (if s.lastError = s.cfg.errNone then (s.cfg.hdrAck16, Instr.ack16) else (s.cfg.hdrNak16, .nak16))
        else (if s.lastError = s.cfg.errNone then (s.cfg.hdrAck8, .ack8) else (s.cfg.hdrNak8, .nak8))) →
      ∃ p, (∀ i ∈ [Instr.poll, .pollSRespond, row],
          exec i s = .next { s with pkt := p, txLen := s.rxIdx, sessionState := .txStart })
        ∧ Stored .pkt s.pkt p 0 [h]

/-- 42_session_fsm.md R177, with the arming of 43_frame_transmitter.md R200. The length is in the range the spec
derives for this state; that the CRC registers hold the last result is log entry 24, that the engine emits no
WdtKick is log entry 6. -/
def Obligations.TransmitStartWritesCrcAndArms : Prop :=
  ∀ s : State, s.polls .txStart → s.overhead ≤ s.txLen → s.txLen ≤ s.cfg.cap →
    (s.crc16Mode = false →
      ∃ p, (∀ i ∈ [Instr.poll, .pollSTxStart],
          exec i s = .next { s with
            pkt := p
            crc8Reg := crc8 s.cfg (s.pktBytes (s.txLen - 1))
            lineDriverEn := true
            txState := .idle
            txIdx := 0
            txRem := s.txLen
            txBusy := true
            txIrqEn := true
            sessionState := .waitTx })
        ∧ Stored .pkt s.pkt p (s.txLen - 1) [crc8 s.cfg (s.pktBytes (s.txLen - 1))])
    ∧ (s.crc16Mode = true →
      ∃ p, (∀ i ∈ [Instr.poll, .pollSTxStart],
          exec i s = .next { s with
            pkt := p
            crc16Reg := crc16 s.cfg 0 (s.pktBytes (s.txLen - 2))
            lineDriverEn := true
            txState := .idle
            txIdx := 0
            txRem := s.txLen
            txBusy := true
            txIrqEn := true
            sessionState := .waitTx })
        ∧ Stored .pkt s.pkt p (s.txLen - 2)
          [(crc16 s.cfg 0 (s.pktBytes (s.txLen - 2))).extractLsb' 0 8,
           (crc16 s.cfg 0 (s.pktBytes (s.txLen - 2))).extractLsb' 8 8])

/-- 42_session_fsm.md R178 to R180: wait for the transmitter, drain and release the line, finish. -/
def Obligations.SettleStates : Prop :=
  ∀ s : State,
    (s.polls .waitTx → ∀ i ∈ [Instr.poll, .pollSWaitTx],
      exec i s = .next { s with sessionState := if s.txBusy = false then .waitDrain else .waitTx })
    ∧ (s.polls .waitDrain → s.uartTxEmpty = true → ∀ i ∈ [Instr.poll, .pollSWaitDrain],
      exec i s = .next { s with
        lineDriverEn := false
        sessionState := .finish
        trace := s.trace ++ [.activityPulse] })
    ∧ (s.polls .waitDrain → s.uartTxEmpty = false → ∀ i ∈ [Instr.poll, .pollSWaitDrain],
      exec i s = .next s)
    ∧ (s.polls .finish → ∀ i ∈ [Instr.poll, .pollSFinish],
      exec i s = .next { s with pktReady := false, sessionState := .start })

/-! ## CRC engines and arbitrator -/

/-- 40_crc.md R131 to R134: the two engines, from the byte step spelled out (the spec's decisions D2 and D3). That
each leaves its result in its register is log entry 24, that the engine emits no WdtKick is log entry 6. -/
def Obligations.CrcEngines : Prop :=
  (∀ (w : Nat) (poly crc : BitVec w) (b : Byte), w = 8 ∨ w = 16 →
    crcByte .msbFirst poly crc b
        = (fun r : BitVec w => if r.getLsbD (w - 1) = true then (r <<< 1) ^^^ poly else r <<< 1)^[8]
            (crc ^^^ (b.setWidth w <<< (w - 8)))
    ∧ crcByte .lsbFirst poly crc b
        = (fun r : BitVec w => if r.getLsbD 0 = true then (r >>> 1) ^^^ poly else r >>> 1)^[8]
            (crc ^^^ b.setWidth w))
  ∧ ∀ (s : State) (seed : Half) (buf : Bytes),
    exec (.crc8 buf) s = .next { s with
      crc8Reg := buf.foldl (fun r b => crcByte s.cfg.crc8Dir s.cfg.poly8 r b) s.cfg.crc8Init }
    ∧ exec (.crc16 seed buf) s = .next { s with
      crc16Reg := buf.foldl (fun r b => crcByte s.cfg.crc16Dir s.cfg.poly16 r b) seed }

/-- 40_crc.md R131: XOR of the byte into the end of the register computes the same function as feeding the byte
one bit at a time (a sentence of the spec about its own decision D2). -/
def Obligations.CrcFeedsOneBitAtATime : Prop :=
  ∀ (w : Nat) (poly crc : BitVec w) (b : Byte), w = 8 ∨ w = 16 →
    crcByte .msbFirst poly crc b =
      [7, 6, 5, 4, 3, 2, 1, 0].foldl
        (fun (r : BitVec w) k => if (r.getLsbD (w - 1) ^^ b.getLsbD k) = true then (r <<< 1) ^^^ poly else r <<< 1) crc

/-- 40_crc.md R135, R136 and R138, 45_arbitrator.md R248: chaining, the empty buffer, absorption of zero, and the
zero holdoff that never changes: laws the spec derives. That the CRC-8 register holds the last result is log entry
24, that the engine emits no WdtKick is log entry 6. -/
def Obligations.CrcLaws : Prop :=
  ∀ (c : Cfg) (seed : Half) (a b : Bytes) (n : Nat),
    crc16 c seed (a ++ b) = crc16 c (crc16 c seed a) b
    ∧ crc16 c seed [] = seed ∧ crc8 c [] = c.crc8Init
    ∧ crc16 c 0 (List.replicate n 0) = 0
    ∧ (c.crc8Init = 0 → crc8 c (List.replicate n 0) = 0
        ∧ ∀ s : State, s.cfg = c → s.irqHoldoff = 0 →
          exec .reseed s = .next { s with crc8Reg := 0, irqHoldoff := 0, irqTimer := 0 })

/-- 45_arbitrator.md R242 and R243 (the spec's decisions D16 and D17). That the CRC-8 register holds the last
result is log entry 24, that the engine emits no WdtKick is log entry 6. -/
def Obligations.ReseedAndRaise : Prop :=
  ∀ (s : State) (r : Byte),
    exec .reseed s = .next { s with
      crc8Reg := crc8 s.cfg [s.irqHoldoff.setWidth 8]
      irqHoldoff := (crc8 s.cfg [s.irqHoldoff.setWidth 8]).extractLsb' 0 5
      irqTimer := (crc8 s.cfg [s.irqHoldoff.setWidth 8]).extractLsb' 0 5 }
    ∧ exec (.raise r) s = .next { s with irqReason := r, irqRaised := true, irqTimer := s.irqHoldoff }

/-! ## Reset -/

/-- 70_reset_and_hazards.md R311: every register the table gives a value, for any configuration, store content and
unspecified values (the spec's decision D18). -/
def Obligations.PowerUpRegisters : Prop :=
  ∀ (c : Cfg) (store : Memory) (u : Unspecified) (s : State), s = State.powerUp c store u →
    s.sessionState = .start ∧ s.rxState = .idle ∧ s.rxEsc = false ∧ s.rxIdx = 0 ∧ s.rxTimeout = 0
    ∧ s.pktReady = false ∧ s.txState = .idle ∧ s.txIdx = 0 ∧ s.txRem = 0 ∧ s.txBusy = false
    ∧ s.txIrqEn = false ∧ s.txLen = 0 ∧ s.crc16Mode = false ∧ s.lastError = c.errNone
    ∧ s.crcErrCount = 0 ∧ s.timeoutCount = 0 ∧ s.fgCont = .fgNone ∧ s.i2cPhase = 0
    ∧ s.i2cBusy = false ∧ s.i2cErr = false ∧ s.lineDriverEn = false

/-- 70_reset_and_hazards.md R313 to R315: ratings, calibration constant, address and arbitrator at power-up, with
no store write and no bus action (the spec's decisions D16, D17 and D39). -/
def Obligations.PowerUpLoadsTheStore : Prop :=
  ∀ (c : Cfg) (store : Memory) (u : Unspecified) (s : State), s = State.powerUp c store u →
    (store.read .store (c.cfgOffset + 1) ++ store.read .store c.cfgOffset = c.cfgSignature →
      s.cfgVrating = store.read .store (c.cfgOffset + 2)
      ∧ s.cfgIrating = store.read .store (c.cfgOffset + 5) ++ store.read .store (c.cfgOffset + 4))
    ∧ (store.read .store (c.cfgOffset + 1) ++ store.read .store c.cfgOffset ≠ c.cfgSignature →
      s.cfgVrating = c.defaultVrating ∧ s.cfgIrating = c.defaultIrating)
    ∧ s.cfgCal = calConst c s.cfgVrating s.cfgIrating
    ∧ s.nodeAddr = (if store.read .store c.addrOffset = 0xFF then c.defaultAddr
        else store.read .store c.addrOffset)
    ∧ s.irqHoldoff = s.nodeAddr.extractLsb' 0 5
    ∧ s.irqReason = c.irqAtBoot ∧ s.irqRaised = true ∧ s.irqTimer = s.irqHoldoff
    ∧ s.store = store ∧ s.trace = []

/-! ## The whole machine -/

/-- 70_reset_and_hazards.md R316, 41_frame_receiver.md R160: the invariants hold at power-up, for every legal
configuration, every store content and every value of the unspecified registers. R316 is derived by the spec; the
clauses that R316 and R160 do not name are the model's (their docstrings in Safety.lean). -/
def Obligations.PowerUpMeetsTheInvariants : Prop :=
  ∀ (c : Cfg) (store : Memory) (u : Unspecified), c.Legal → store.wf .store → u.pkt.wf .pkt →
    (∀ x ∈ u.pkt, x.1 < c.cap) → Sys2Proof.Machine.Inv (State.powerUp c store u)

/-- 70_reset_and_hazards.md R316, 41_frame_receiver.md R160, 20_memory.md R62: every step keeps the invariants,
from every state that meets them. The spec derives them. -/
def Obligations.StepKeepsTheInvariants : Prop :=
  ∀ s t : State, Sys2Proof.Machine.Inv s → step s = .next t → Sys2Proof.Machine.Inv t

/-- 60_exceptions.md R304, 20_memory.md R62: from every state that meets the invariants, every step answers a next
state: no fault, no refusal, whatever the next input. The spec derives R304 and R62. -/
def Obligations.StepNeverStops : Prop :=
  ∀ s : State, Sys2Proof.Machine.Inv s → ∃ t, step s = .next t

/-- 20_memory.md R88, 00_scope.md R12, 43_frame_transmitter.md R200: no step changes the configuration or an
output already made, and only an enabled TX_READY writes to the line, one byte a step. -/
def Obligations.StepAppendsItsOutput : Prop :=
  ∀ s t : State, step s = .next t →
    t.cfg = s.cfg ∧ ∃ l, t.trace = s.trace ++ l ∧
      ∀ b, Output.uartWrite b ∈ l → s.txIrqEn = true ∧ l = [.uartWrite b]
        ∧ ∃ inp rest, s.script = inp :: rest ∧ inp.event = .txReady
end

