-- ==== Sys2Proof/Laws/Memory.lean ====
section
/-! SUPPORT. The laws of the byte-addressed spaces: a read after a write, and that every operation keeps the
canonical form and the range of addresses. -/

namespace Sys2Proof.Machine

theorem Memory.read_nil (sp : Space) (a : Nat) : Memory.read sp [] a = sp.unlisted := rfl

theorem Memory.read_filter_ne (sp : Space) (m : Memory) {a b : Nat} (h : b ≠ a) :
    Memory.read sp (m.filter fun c => decide (c.1 ≠ a)) b = Memory.read sp m b := by
  induction m with
  | nil => rfl
  | cons c m ih =>
    obtain ⟨k, v⟩ := c
    by_cases hk : k = a
    · subst hk
      simp [Memory.read, Ne.symm h]
      simpa using ih
    · simp [hk, Memory.read]
      by_cases hb : k = b <;> simp [hb]
      simpa using ih

theorem Memory.read_filter_self (sp : Space) (m : Memory) (a : Nat) :
    Memory.read sp (m.filter fun c => decide (c.1 ≠ a)) a = sp.unlisted := by
  induction m with
  | nil => rfl
  | cons c m ih =>
    obtain ⟨k, v⟩ := c
    by_cases hk : k = a
    · simpa [hk] using ih
    · simp [hk, Memory.read]
      simpa using ih

theorem Memory.read_insert_ne (sp : Space) (m : Memory) {a b : Nat} (v : Byte) (h : b ≠ a) :
    Memory.read sp (Memory.insert a v m) b = Memory.read sp m b := by
  induction m with
  | nil => simp [Memory.insert, Memory.read, Ne.symm h]
  | cons c m ih =>
    obtain ⟨k, w⟩ := c
    by_cases hk : a < k
    · simp [Memory.insert, hk, Memory.read, Ne.symm h]
    · simp [Memory.insert, hk, Memory.read, ih]

theorem Memory.read_insert_self (sp : Space) (m : Memory) (a : Nat) (v : Byte)
    (h : ∀ c ∈ m, c.1 ≠ a) : Memory.read sp (Memory.insert a v m) a = v := by
  induction m with
  | nil => simp [Memory.insert, Memory.read]
  | cons c m ih =>
    obtain ⟨k, w⟩ := c
    have hk : k ≠ a := h (k, w) (by simp)
    by_cases hlt : a < k
    · simp [Memory.insert, hlt, Memory.read]
    · simp [Memory.insert, hlt, Memory.read, hk]
      exact ih fun c hc => h c (by simp [hc])

/-- A read after a write to the same address gives the value written. -/
theorem Memory.read_write_self (sp : Space) (m : Memory) (a : Nat) (v : Byte) :
    Memory.read sp (Memory.write sp m a v) a = v := by
  unfold Memory.write
  by_cases hv : v = sp.unlisted
  · simp only [hv, if_true]
    exact Memory.read_filter_self sp m a
  · simp only [hv, if_false]
    exact Memory.read_insert_self sp _ a v (by simp)

/-- A write leaves every other address alone. -/
theorem Memory.read_write_ne (sp : Space) (m : Memory) {a b : Nat} (v : Byte) (h : b ≠ a) :
    Memory.read sp (Memory.write sp m a v) b = Memory.read sp m b := by
  unfold Memory.write
  by_cases hv : v = sp.unlisted
  · simp only [hv, if_true]
    exact Memory.read_filter_ne sp m h
  · simp only [hv, if_false]
    rw [Memory.read_insert_ne sp _ v h, Memory.read_filter_ne sp m h]

/-- One byte after a write, at any address. -/
theorem Memory.read_write (sp : Space) (m : Memory) (a b : Nat) (v : Byte) :
    Memory.read sp (Memory.write sp m a v) b = if b = a then v else Memory.read sp m b := by
  by_cases h : b = a
  · subst h; simp [Memory.read_write_self]
  · simp [h, Memory.read_write_ne]

/-- A write of several bytes leaves the addresses before and behind them alone. -/
theorem Memory.read_writeAll_outside (sp : Space) (vs : Bytes) :
    ∀ (m : Memory) (a x : Nat), x < a ∨ a + vs.length ≤ x →
      Memory.read sp (Memory.writeAll sp m a vs) x = Memory.read sp m x := by
  induction vs with
  | nil => intros; rfl
  | cons v vs ih =>
    intro m a x h
    simp only [List.length_cons] at h
    simp only [Memory.writeAll]
    rw [ih _ _ _ (by omega), Memory.read_write_ne _ _ _ (by omega)]

/-- A write of several bytes stores each of them. -/
theorem Memory.read_writeAll_inside (sp : Space) (vs : Bytes) :
    ∀ (m : Memory) (a i : Nat) (h : i < vs.length),
      Memory.read sp (Memory.writeAll sp m a vs) (a + i) = vs[i] := by
  induction vs with
  | nil => intro _ _ i h; simp at h
  | cons v vs ih =>
    intro m a i h
    simp only [Memory.writeAll]
    cases i with
    | zero =>
      rw [Memory.read_writeAll_outside _ _ _ _ _ (by omega)]
      simp [Memory.read_write_self]
    | succ i =>
      have := ih (Memory.write sp m a v) (a + 1) i (by simpa using h)
      simpa [Nat.add_assoc, Nat.add_comm 1 i] using this

/-- What `writeAll` does, in the terms of the statements. -/
theorem Memory.writeAll_stored (sp : Space) (m : Memory) (a : Nat) (vs : Bytes) :
    Stored sp m (Memory.writeAll sp m a vs) a vs :=
  ⟨fun i h => Memory.read_writeAll_inside sp vs m a i h,
   fun x h => Memory.read_writeAll_outside sp vs m a x h⟩

/-- What `write` does, in the terms of the statements. -/
theorem Memory.write_stored (sp : Space) (m : Memory) (a : Nat) (v : Byte) :
    Stored sp m (Memory.write sp m a v) a [v] :=
  Memory.writeAll_stored sp m a [v]

/-! ## The canonical form -/

theorem Memory.mem_insert {a : Nat} {v : Byte} {m : Memory} {c : Host.Cell}
    (h : c ∈ Memory.insert a v m) : c = (a, v) ∨ c ∈ m := by
  induction m with
  | nil => simpa [Memory.insert] using h
  | cons d m ih =>
    obtain ⟨k, w⟩ := d
    by_cases hk : a < k
    · simpa [Memory.insert, hk] using h
    · simp only [Memory.insert, hk, if_false, List.mem_cons] at h ⊢
      rcases h with h | h
      · exact .inr (.inl h)
      · exact (ih h).imp_right .inr

theorem Memory.pairwise_insert {a : Nat} {v : Byte} {m : Memory}
    (hm : m.Pairwise fun c d => c.1 < d.1) (ha : ∀ c ∈ m, c.1 ≠ a) :
    (Memory.insert a v m).Pairwise fun c d => c.1 < d.1 := by
  induction m with
  | nil => simp [Memory.insert]
  | cons d m ih =>
    obtain ⟨k, w⟩ := d
    have hk : k ≠ a := ha (k, w) (by simp)
    rw [List.pairwise_cons] at hm
    by_cases hlt : a < k
    · simp only [Memory.insert, hlt, if_true, List.pairwise_cons, List.mem_cons]
      refine ⟨?_, hm.1, hm.2⟩
      rintro c (rfl | hc)
      · exact hlt
      · exact lt_trans hlt (hm.1 c hc)
    · simp only [Memory.insert, hlt, if_false, List.pairwise_cons]
      refine ⟨fun c hc => ?_, ih hm.2 fun c hc => ha c (by simp [hc])⟩
      rcases Memory.mem_insert hc with rfl | hc
      · show k < a
        omega
      · exact hm.1 c hc

/-- A write keeps the canonical form. -/
theorem Memory.write_wf {sp : Space} {m : Memory} (h : m.wf sp) (a : Nat) (v : Byte) :
    (Memory.write sp m a v).wf sp := by
  have hp : (m.filter fun c => decide (c.1 ≠ a)).Pairwise fun c d => c.1 < d.1 := h.1.filter _
  have hd : ∀ c ∈ m.filter (fun c => decide (c.1 ≠ a)), c.2 ≠ sp.unlisted :=
    fun c hc => h.2 c (List.mem_filter.1 hc).1
  unfold Memory.write
  by_cases hv : v = sp.unlisted
  · simpa only [hv, if_true] using And.intro hp hd
  · simp only [hv, if_false]
    refine ⟨Memory.pairwise_insert hp (by simp), fun c hc => ?_⟩
    rcases Memory.mem_insert hc with rfl | hc
    · exact hv
    · exact hd c hc

/-- A write of several bytes keeps the canonical form. -/
theorem Memory.writeAll_wf {sp : Space} (vs : Bytes) :
    ∀ {m : Memory}, m.wf sp → ∀ a, (Memory.writeAll sp m a vs).wf sp := by
  induction vs with
  | nil => intro m h _; exact h
  | cons v vs ih => intro m h a; exact ih (Memory.write_wf h a v) (a + 1)

/-- A write lists no address but its own and those listed before. -/
theorem Memory.write_inside {sp : Space} {m : Memory} {n a : Nat} {v : Byte}
    (h : ∀ c ∈ m, c.1 < n) (ha : a < n) : ∀ c ∈ Memory.write sp m a v, c.1 < n := by
  intro c hc
  unfold Memory.write at hc
  by_cases hv : v = sp.unlisted
  · simp only [hv, if_true] at hc
    exact h c (List.mem_filter.1 hc).1
  · simp only [hv, if_false] at hc
    rcases Memory.mem_insert hc with rfl | hc
    · exact ha
    · exact h c (List.mem_filter.1 hc).1

/-- A write of several bytes below `n` lists no address from `n` on. -/
theorem Memory.writeAll_inside {sp : Space} {n : Nat} (vs : Bytes) :
    ∀ {m : Memory} {a : Nat}, (∀ c ∈ m, c.1 < n) → a + vs.length ≤ n →
      ∀ c ∈ Memory.writeAll sp m a vs, c.1 < n := by
  induction vs with
  | nil => intro m a h _; exact h
  | cons v vs ih =>
    intro m a h hn
    simp only [List.length_cons] at hn
    exact ih (Memory.write_inside h (by omega)) (by omega)

/-- The memories of the reset state are canonical. -/
theorem reset_memory_wf : State.reset.pkt.wf .pkt ∧ State.reset.store.wf .store := by decide

end Sys2Proof.Machine
end

