-- ==== Sys2Proof/Laws/State.lean ====
section
/-! SUPPORT. One lemma per field per named update of the state, true by unfolding the record, so that no later proof
unfolds a record update. -/

namespace Sys2Proof.Machine

section Putpkt
variable (s : State) (i : Nat) (v : Byte)
@[simp] theorem State.putPkt_cfg : (s.putPkt i v).cfg = s.cfg := rfl
@[simp] theorem State.putPkt_pkt : (s.putPkt i v).pkt = s.pkt.write .pkt i v := rfl
@[simp] theorem State.putPkt_store : (s.putPkt i v).store = s.store := rfl
@[simp] theorem State.putPkt_crc8Reg : (s.putPkt i v).crc8Reg = s.crc8Reg := rfl
@[simp] theorem State.putPkt_crc16Reg : (s.putPkt i v).crc16Reg = s.crc16Reg := rfl
@[simp] theorem State.putPkt_i2cVal : (s.putPkt i v).i2cVal = s.i2cVal := rfl
@[simp] theorem State.putPkt_nodeAddr : (s.putPkt i v).nodeAddr = s.nodeAddr := rfl
@[simp] theorem State.putPkt_cfgVrating : (s.putPkt i v).cfgVrating = s.cfgVrating := rfl
@[simp] theorem State.putPkt_cfgIrating : (s.putPkt i v).cfgIrating = s.cfgIrating := rfl
@[simp] theorem State.putPkt_cfgCal : (s.putPkt i v).cfgCal = s.cfgCal := rfl
@[simp] theorem State.putPkt_rxState : (s.putPkt i v).rxState = s.rxState := rfl
@[simp] theorem State.putPkt_rxEsc : (s.putPkt i v).rxEsc = s.rxEsc := rfl
@[simp] theorem State.putPkt_rxIdx : (s.putPkt i v).rxIdx = s.rxIdx := rfl
@[simp] theorem State.putPkt_rxTimeout : (s.putPkt i v).rxTimeout = s.rxTimeout := rfl
@[simp] theorem State.putPkt_pktReady : (s.putPkt i v).pktReady = s.pktReady := rfl
@[simp] theorem State.putPkt_txState : (s.putPkt i v).txState = s.txState := rfl
@[simp] theorem State.putPkt_txIdx : (s.putPkt i v).txIdx = s.txIdx := rfl
@[simp] theorem State.putPkt_txRem : (s.putPkt i v).txRem = s.txRem := rfl
@[simp] theorem State.putPkt_txBusy : (s.putPkt i v).txBusy = s.txBusy := rfl
@[simp] theorem State.putPkt_txIrqEn : (s.putPkt i v).txIrqEn = s.txIrqEn := rfl
@[simp] theorem State.putPkt_sessionState : (s.putPkt i v).sessionState = s.sessionState := rfl
@[simp] theorem State.putPkt_crc16Mode : (s.putPkt i v).crc16Mode = s.crc16Mode := rfl
@[simp] theorem State.putPkt_txLen : (s.putPkt i v).txLen = s.txLen := rfl
@[simp] theorem State.putPkt_lastError : (s.putPkt i v).lastError = s.lastError := rfl
@[simp] theorem State.putPkt_crcErrCount : (s.putPkt i v).crcErrCount = s.crcErrCount := rfl
@[simp] theorem State.putPkt_timeoutCount : (s.putPkt i v).timeoutCount = s.timeoutCount := rfl
@[simp] theorem State.putPkt_fgCont : (s.putPkt i v).fgCont = s.fgCont := rfl
@[simp] theorem State.putPkt_i2cPhase : (s.putPkt i v).i2cPhase = s.i2cPhase := rfl
@[simp] theorem State.putPkt_i2cReg : (s.putPkt i v).i2cReg = s.i2cReg := rfl
@[simp] theorem State.putPkt_i2cDir : (s.putPkt i v).i2cDir = s.i2cDir := rfl
@[simp] theorem State.putPkt_i2cBusy : (s.putPkt i v).i2cBusy = s.i2cBusy := rfl
@[simp] theorem State.putPkt_i2cErr : (s.putPkt i v).i2cErr = s.i2cErr := rfl
@[simp] theorem State.putPkt_irqReason : (s.putPkt i v).irqReason = s.irqReason := rfl
@[simp] theorem State.putPkt_irqRaised : (s.putPkt i v).irqRaised = s.irqRaised := rfl
@[simp] theorem State.putPkt_irqHoldoff : (s.putPkt i v).irqHoldoff = s.irqHoldoff := rfl
@[simp] theorem State.putPkt_irqTimer : (s.putPkt i v).irqTimer = s.irqTimer := rfl
@[simp] theorem State.putPkt_lineDriverEn : (s.putPkt i v).lineDriverEn = s.lineDriverEn := rfl
@[simp] theorem State.putPkt_out0 : (s.putPkt i v).out0 = s.out0 := rfl
@[simp] theorem State.putPkt_out1 : (s.putPkt i v).out1 = s.out1 := rfl
@[simp] theorem State.putPkt_addrProgEn : (s.putPkt i v).addrProgEn = s.addrProgEn := rfl
@[simp] theorem State.putPkt_uartTxEmpty : (s.putPkt i v).uartTxEmpty = s.uartTxEmpty := rfl
@[simp] theorem State.putPkt_script : (s.putPkt i v).script = s.script := rfl
@[simp] theorem State.putPkt_trace : (s.putPkt i v).trace = s.trace := rfl
end Putpkt

section Emit
variable (s : State) (o : Output)
@[simp] theorem emit_cfg : (emit o s).cfg = s.cfg := rfl
@[simp] theorem emit_pkt : (emit o s).pkt = s.pkt := rfl
@[simp] theorem emit_store : (emit o s).store = s.store := rfl
@[simp] theorem emit_crc8Reg : (emit o s).crc8Reg = s.crc8Reg := rfl
@[simp] theorem emit_crc16Reg : (emit o s).crc16Reg = s.crc16Reg := rfl
@[simp] theorem emit_i2cVal : (emit o s).i2cVal = s.i2cVal := rfl
@[simp] theorem emit_nodeAddr : (emit o s).nodeAddr = s.nodeAddr := rfl
@[simp] theorem emit_cfgVrating : (emit o s).cfgVrating = s.cfgVrating := rfl
@[simp] theorem emit_cfgIrating : (emit o s).cfgIrating = s.cfgIrating := rfl
@[simp] theorem emit_cfgCal : (emit o s).cfgCal = s.cfgCal := rfl
@[simp] theorem emit_rxState : (emit o s).rxState = s.rxState := rfl
@[simp] theorem emit_rxEsc : (emit o s).rxEsc = s.rxEsc := rfl
@[simp] theorem emit_rxIdx : (emit o s).rxIdx = s.rxIdx := rfl
@[simp] theorem emit_rxTimeout : (emit o s).rxTimeout = s.rxTimeout := rfl
@[simp] theorem emit_pktReady : (emit o s).pktReady = s.pktReady := rfl
@[simp] theorem emit_txState : (emit o s).txState = s.txState := rfl
@[simp] theorem emit_txIdx : (emit o s).txIdx = s.txIdx := rfl
@[simp] theorem emit_txRem : (emit o s).txRem = s.txRem := rfl
@[simp] theorem emit_txBusy : (emit o s).txBusy = s.txBusy := rfl
@[simp] theorem emit_txIrqEn : (emit o s).txIrqEn = s.txIrqEn := rfl
@[simp] theorem emit_sessionState : (emit o s).sessionState = s.sessionState := rfl
@[simp] theorem emit_crc16Mode : (emit o s).crc16Mode = s.crc16Mode := rfl
@[simp] theorem emit_txLen : (emit o s).txLen = s.txLen := rfl
@[simp] theorem emit_lastError : (emit o s).lastError = s.lastError := rfl
@[simp] theorem emit_crcErrCount : (emit o s).crcErrCount = s.crcErrCount := rfl
@[simp] theorem emit_timeoutCount : (emit o s).timeoutCount = s.timeoutCount := rfl
@[simp] theorem emit_fgCont : (emit o s).fgCont = s.fgCont := rfl
@[simp] theorem emit_i2cPhase : (emit o s).i2cPhase = s.i2cPhase := rfl
@[simp] theorem emit_i2cReg : (emit o s).i2cReg = s.i2cReg := rfl
@[simp] theorem emit_i2cDir : (emit o s).i2cDir = s.i2cDir := rfl
@[simp] theorem emit_i2cBusy : (emit o s).i2cBusy = s.i2cBusy := rfl
@[simp] theorem emit_i2cErr : (emit o s).i2cErr = s.i2cErr := rfl
@[simp] theorem emit_irqReason : (emit o s).irqReason = s.irqReason := rfl
@[simp] theorem emit_irqRaised : (emit o s).irqRaised = s.irqRaised := rfl
@[simp] theorem emit_irqHoldoff : (emit o s).irqHoldoff = s.irqHoldoff := rfl
@[simp] theorem emit_irqTimer : (emit o s).irqTimer = s.irqTimer := rfl
@[simp] theorem emit_lineDriverEn : (emit o s).lineDriverEn = s.lineDriverEn := rfl
@[simp] theorem emit_out0 : (emit o s).out0 = s.out0 := rfl
@[simp] theorem emit_out1 : (emit o s).out1 = s.out1 := rfl
@[simp] theorem emit_addrProgEn : (emit o s).addrProgEn = s.addrProgEn := rfl
@[simp] theorem emit_uartTxEmpty : (emit o s).uartTxEmpty = s.uartTxEmpty := rfl
@[simp] theorem emit_script : (emit o s).script = s.script := rfl
@[simp] theorem emit_trace : (emit o s).trace = s.trace ++ [o] := rfl
end Emit

section Storewrite
variable (s : State) (a : Nat) (v : Byte)
@[simp] theorem storeWrite_cfg : (storeWrite a v s).cfg = s.cfg := rfl
@[simp] theorem storeWrite_pkt : (storeWrite a v s).pkt = s.pkt := rfl
@[simp] theorem storeWrite_store : (storeWrite a v s).store = s.store.write .store a v := rfl
@[simp] theorem storeWrite_crc8Reg : (storeWrite a v s).crc8Reg = s.crc8Reg := rfl
@[simp] theorem storeWrite_crc16Reg : (storeWrite a v s).crc16Reg = s.crc16Reg := rfl
@[simp] theorem storeWrite_i2cVal : (storeWrite a v s).i2cVal = s.i2cVal := rfl
@[simp] theorem storeWrite_nodeAddr : (storeWrite a v s).nodeAddr = s.nodeAddr := rfl
@[simp] theorem storeWrite_cfgVrating : (storeWrite a v s).cfgVrating = s.cfgVrating := rfl
@[simp] theorem storeWrite_cfgIrating : (storeWrite a v s).cfgIrating = s.cfgIrating := rfl
@[simp] theorem storeWrite_cfgCal : (storeWrite a v s).cfgCal = s.cfgCal := rfl
@[simp] theorem storeWrite_rxState : (storeWrite a v s).rxState = s.rxState := rfl
@[simp] theorem storeWrite_rxEsc : (storeWrite a v s).rxEsc = s.rxEsc := rfl
@[simp] theorem storeWrite_rxIdx : (storeWrite a v s).rxIdx = s.rxIdx := rfl
@[simp] theorem storeWrite_rxTimeout : (storeWrite a v s).rxTimeout = s.rxTimeout := rfl
@[simp] theorem storeWrite_pktReady : (storeWrite a v s).pktReady = s.pktReady := rfl
@[simp] theorem storeWrite_txState : (storeWrite a v s).txState = s.txState := rfl
@[simp] theorem storeWrite_txIdx : (storeWrite a v s).txIdx = s.txIdx := rfl
@[simp] theorem storeWrite_txRem : (storeWrite a v s).txRem = s.txRem := rfl
@[simp] theorem storeWrite_txBusy : (storeWrite a v s).txBusy = s.txBusy := rfl
@[simp] theorem storeWrite_txIrqEn : (storeWrite a v s).txIrqEn = s.txIrqEn := rfl
@[simp] theorem storeWrite_sessionState : (storeWrite a v s).sessionState = s.sessionState := rfl
@[simp] theorem storeWrite_crc16Mode : (storeWrite a v s).crc16Mode = s.crc16Mode := rfl
@[simp] theorem storeWrite_txLen : (storeWrite a v s).txLen = s.txLen := rfl
@[simp] theorem storeWrite_lastError : (storeWrite a v s).lastError = s.lastError := rfl
@[simp] theorem storeWrite_crcErrCount : (storeWrite a v s).crcErrCount = s.crcErrCount := rfl
@[simp] theorem storeWrite_timeoutCount : (storeWrite a v s).timeoutCount = s.timeoutCount := rfl
@[simp] theorem storeWrite_fgCont : (storeWrite a v s).fgCont = s.fgCont := rfl
@[simp] theorem storeWrite_i2cPhase : (storeWrite a v s).i2cPhase = s.i2cPhase := rfl
@[simp] theorem storeWrite_i2cReg : (storeWrite a v s).i2cReg = s.i2cReg := rfl
@[simp] theorem storeWrite_i2cDir : (storeWrite a v s).i2cDir = s.i2cDir := rfl
@[simp] theorem storeWrite_i2cBusy : (storeWrite a v s).i2cBusy = s.i2cBusy := rfl
@[simp] theorem storeWrite_i2cErr : (storeWrite a v s).i2cErr = s.i2cErr := rfl
@[simp] theorem storeWrite_irqReason : (storeWrite a v s).irqReason = s.irqReason := rfl
@[simp] theorem storeWrite_irqRaised : (storeWrite a v s).irqRaised = s.irqRaised := rfl
@[simp] theorem storeWrite_irqHoldoff : (storeWrite a v s).irqHoldoff = s.irqHoldoff := rfl
@[simp] theorem storeWrite_irqTimer : (storeWrite a v s).irqTimer = s.irqTimer := rfl
@[simp] theorem storeWrite_lineDriverEn : (storeWrite a v s).lineDriverEn = s.lineDriverEn := rfl
@[simp] theorem storeWrite_out0 : (storeWrite a v s).out0 = s.out0 := rfl
@[simp] theorem storeWrite_out1 : (storeWrite a v s).out1 = s.out1 := rfl
@[simp] theorem storeWrite_addrProgEn : (storeWrite a v s).addrProgEn = s.addrProgEn := rfl
@[simp] theorem storeWrite_uartTxEmpty : (storeWrite a v s).uartTxEmpty = s.uartTxEmpty := rfl
@[simp] theorem storeWrite_script : (storeWrite a v s).script = s.script := rfl
@[simp] theorem storeWrite_trace : (storeWrite a v s).trace = s.trace ++ [.storeWrite a v] := rfl
end Storewrite

section Abandon
variable (s : State)
@[simp] theorem abandon_cfg : (abandon s).cfg = s.cfg := rfl
@[simp] theorem abandon_pkt : (abandon s).pkt = s.pkt := rfl
@[simp] theorem abandon_store : (abandon s).store = s.store := rfl
@[simp] theorem abandon_crc8Reg : (abandon s).crc8Reg = s.crc8Reg := rfl
@[simp] theorem abandon_crc16Reg : (abandon s).crc16Reg = s.crc16Reg := rfl
@[simp] theorem abandon_i2cVal : (abandon s).i2cVal = s.i2cVal := rfl
@[simp] theorem abandon_nodeAddr : (abandon s).nodeAddr = s.nodeAddr := rfl
@[simp] theorem abandon_cfgVrating : (abandon s).cfgVrating = s.cfgVrating := rfl
@[simp] theorem abandon_cfgIrating : (abandon s).cfgIrating = s.cfgIrating := rfl
@[simp] theorem abandon_cfgCal : (abandon s).cfgCal = s.cfgCal := rfl
@[simp] theorem abandon_rxState : (abandon s).rxState = s.rxState := rfl
@[simp] theorem abandon_rxEsc : (abandon s).rxEsc = s.rxEsc := rfl
@[simp] theorem abandon_rxIdx : (abandon s).rxIdx = s.rxIdx := rfl
@[simp] theorem abandon_rxTimeout : (abandon s).rxTimeout = s.rxTimeout := rfl
@[simp] theorem abandon_pktReady : (abandon s).pktReady = s.pktReady := rfl
@[simp] theorem abandon_txState : (abandon s).txState = s.txState := rfl
@[simp] theorem abandon_txIdx : (abandon s).txIdx = s.txIdx := rfl
@[simp] theorem abandon_txRem : (abandon s).txRem = s.txRem := rfl
@[simp] theorem abandon_txBusy : (abandon s).txBusy = s.txBusy := rfl
@[simp] theorem abandon_txIrqEn : (abandon s).txIrqEn = s.txIrqEn := rfl
@[simp] theorem abandon_sessionState : (abandon s).sessionState = .finish := rfl
@[simp] theorem abandon_crc16Mode : (abandon s).crc16Mode = s.crc16Mode := rfl
@[simp] theorem abandon_txLen : (abandon s).txLen = s.txLen := rfl
@[simp] theorem abandon_lastError : (abandon s).lastError = s.lastError := rfl
@[simp] theorem abandon_crcErrCount : (abandon s).crcErrCount = s.crcErrCount := rfl
@[simp] theorem abandon_timeoutCount : (abandon s).timeoutCount = s.timeoutCount := rfl
@[simp] theorem abandon_fgCont : (abandon s).fgCont = s.fgCont := rfl
@[simp] theorem abandon_i2cPhase : (abandon s).i2cPhase = s.i2cPhase := rfl
@[simp] theorem abandon_i2cReg : (abandon s).i2cReg = s.i2cReg := rfl
@[simp] theorem abandon_i2cDir : (abandon s).i2cDir = s.i2cDir := rfl
@[simp] theorem abandon_i2cBusy : (abandon s).i2cBusy = s.i2cBusy := rfl
@[simp] theorem abandon_i2cErr : (abandon s).i2cErr = s.i2cErr := rfl
@[simp] theorem abandon_irqReason : (abandon s).irqReason = s.irqReason := rfl
@[simp] theorem abandon_irqRaised : (abandon s).irqRaised = s.irqRaised := rfl
@[simp] theorem abandon_irqHoldoff : (abandon s).irqHoldoff = s.irqHoldoff := rfl
@[simp] theorem abandon_irqTimer : (abandon s).irqTimer = s.irqTimer := rfl
@[simp] theorem abandon_lineDriverEn : (abandon s).lineDriverEn = s.lineDriverEn := rfl
@[simp] theorem abandon_out0 : (abandon s).out0 = s.out0 := rfl
@[simp] theorem abandon_out1 : (abandon s).out1 = s.out1 := rfl
@[simp] theorem abandon_addrProgEn : (abandon s).addrProgEn = s.addrProgEn := rfl
@[simp] theorem abandon_uartTxEmpty : (abandon s).uartTxEmpty = s.uartTxEmpty := rfl
@[simp] theorem abandon_script : (abandon s).script = s.script := rfl
@[simp] theorem abandon_trace : (abandon s).trace = s.trace := rfl
end Abandon

section Returntostart
variable (s : State)
@[simp] theorem returnToStart_cfg : (returnToStart s).cfg = s.cfg := rfl
@[simp] theorem returnToStart_pkt : (returnToStart s).pkt = s.pkt := rfl
@[simp] theorem returnToStart_store : (returnToStart s).store = s.store := rfl
@[simp] theorem returnToStart_crc8Reg : (returnToStart s).crc8Reg = s.crc8Reg := rfl
@[simp] theorem returnToStart_crc16Reg : (returnToStart s).crc16Reg = s.crc16Reg := rfl
@[simp] theorem returnToStart_i2cVal : (returnToStart s).i2cVal = s.i2cVal := rfl
@[simp] theorem returnToStart_nodeAddr : (returnToStart s).nodeAddr = s.nodeAddr := rfl
@[simp] theorem returnToStart_cfgVrating : (returnToStart s).cfgVrating = s.cfgVrating := rfl
@[simp] theorem returnToStart_cfgIrating : (returnToStart s).cfgIrating = s.cfgIrating := rfl
@[simp] theorem returnToStart_cfgCal : (returnToStart s).cfgCal = s.cfgCal := rfl
@[simp] theorem returnToStart_rxState : (returnToStart s).rxState = s.rxState := rfl
@[simp] theorem returnToStart_rxEsc : (returnToStart s).rxEsc = s.rxEsc := rfl
@[simp] theorem returnToStart_rxIdx : (returnToStart s).rxIdx = s.rxIdx := rfl
@[simp] theorem returnToStart_rxTimeout : (returnToStart s).rxTimeout = s.rxTimeout := rfl
@[simp] theorem returnToStart_pktReady : (returnToStart s).pktReady = false := rfl
@[simp] theorem returnToStart_txState : (returnToStart s).txState = s.txState := rfl
@[simp] theorem returnToStart_txIdx : (returnToStart s).txIdx = s.txIdx := rfl
@[simp] theorem returnToStart_txRem : (returnToStart s).txRem = s.txRem := rfl
@[simp] theorem returnToStart_txBusy : (returnToStart s).txBusy = s.txBusy := rfl
@[simp] theorem returnToStart_txIrqEn : (returnToStart s).txIrqEn = s.txIrqEn := rfl
@[simp] theorem returnToStart_sessionState : (returnToStart s).sessionState = .start := rfl
@[simp] theorem returnToStart_crc16Mode : (returnToStart s).crc16Mode = s.crc16Mode := rfl
@[simp] theorem returnToStart_txLen : (returnToStart s).txLen = s.txLen := rfl
@[simp] theorem returnToStart_lastError : (returnToStart s).lastError = s.lastError := rfl
@[simp] theorem returnToStart_crcErrCount : (returnToStart s).crcErrCount = s.crcErrCount := rfl
@[simp] theorem returnToStart_timeoutCount : (returnToStart s).timeoutCount = s.timeoutCount := rfl
@[simp] theorem returnToStart_fgCont : (returnToStart s).fgCont = s.fgCont := rfl
@[simp] theorem returnToStart_i2cPhase : (returnToStart s).i2cPhase = s.i2cPhase := rfl
@[simp] theorem returnToStart_i2cReg : (returnToStart s).i2cReg = s.i2cReg := rfl
@[simp] theorem returnToStart_i2cDir : (returnToStart s).i2cDir = s.i2cDir := rfl
@[simp] theorem returnToStart_i2cBusy : (returnToStart s).i2cBusy = s.i2cBusy := rfl
@[simp] theorem returnToStart_i2cErr : (returnToStart s).i2cErr = s.i2cErr := rfl
@[simp] theorem returnToStart_irqReason : (returnToStart s).irqReason = s.irqReason := rfl
@[simp] theorem returnToStart_irqRaised : (returnToStart s).irqRaised = s.irqRaised := rfl
@[simp] theorem returnToStart_irqHoldoff : (returnToStart s).irqHoldoff = s.irqHoldoff := rfl
@[simp] theorem returnToStart_irqTimer : (returnToStart s).irqTimer = s.irqTimer := rfl
@[simp] theorem returnToStart_lineDriverEn : (returnToStart s).lineDriverEn = s.lineDriverEn := rfl
@[simp] theorem returnToStart_out0 : (returnToStart s).out0 = s.out0 := rfl
@[simp] theorem returnToStart_out1 : (returnToStart s).out1 = s.out1 := rfl
@[simp] theorem returnToStart_addrProgEn : (returnToStart s).addrProgEn = s.addrProgEn := rfl
@[simp] theorem returnToStart_uartTxEmpty : (returnToStart s).uartTxEmpty = s.uartTxEmpty := rfl
@[simp] theorem returnToStart_script : (returnToStart s).script = s.script := rfl
@[simp] theorem returnToStart_trace : (returnToStart s).trace = s.trace := rfl
end Returntostart

section Runcrc8
variable (s : State) (b : Bytes)
@[simp] theorem runCrc8_cfg : (runCrc8 b s).cfg = s.cfg := rfl
@[simp] theorem runCrc8_pkt : (runCrc8 b s).pkt = s.pkt := rfl
@[simp] theorem runCrc8_store : (runCrc8 b s).store = s.store := rfl
@[simp] theorem runCrc8_crc8Reg : (runCrc8 b s).crc8Reg = crc8 s.cfg b := rfl
@[simp] theorem runCrc8_crc16Reg : (runCrc8 b s).crc16Reg = s.crc16Reg := rfl
@[simp] theorem runCrc8_i2cVal : (runCrc8 b s).i2cVal = s.i2cVal := rfl
@[simp] theorem runCrc8_nodeAddr : (runCrc8 b s).nodeAddr = s.nodeAddr := rfl
@[simp] theorem runCrc8_cfgVrating : (runCrc8 b s).cfgVrating = s.cfgVrating := rfl
@[simp] theorem runCrc8_cfgIrating : (runCrc8 b s).cfgIrating = s.cfgIrating := rfl
@[simp] theorem runCrc8_cfgCal : (runCrc8 b s).cfgCal = s.cfgCal := rfl
@[simp] theorem runCrc8_rxState : (runCrc8 b s).rxState = s.rxState := rfl
@[simp] theorem runCrc8_rxEsc : (runCrc8 b s).rxEsc = s.rxEsc := rfl
@[simp] theorem runCrc8_rxIdx : (runCrc8 b s).rxIdx = s.rxIdx := rfl
@[simp] theorem runCrc8_rxTimeout : (runCrc8 b s).rxTimeout = s.rxTimeout := rfl
@[simp] theorem runCrc8_pktReady : (runCrc8 b s).pktReady = s.pktReady := rfl
@[simp] theorem runCrc8_txState : (runCrc8 b s).txState = s.txState := rfl
@[simp] theorem runCrc8_txIdx : (runCrc8 b s).txIdx = s.txIdx := rfl
@[simp] theorem runCrc8_txRem : (runCrc8 b s).txRem = s.txRem := rfl
@[simp] theorem runCrc8_txBusy : (runCrc8 b s).txBusy = s.txBusy := rfl
@[simp] theorem runCrc8_txIrqEn : (runCrc8 b s).txIrqEn = s.txIrqEn := rfl
@[simp] theorem runCrc8_sessionState : (runCrc8 b s).sessionState = s.sessionState := rfl
@[simp] theorem runCrc8_crc16Mode : (runCrc8 b s).crc16Mode = s.crc16Mode := rfl
@[simp] theorem runCrc8_txLen : (runCrc8 b s).txLen = s.txLen := rfl
@[simp] theorem runCrc8_lastError : (runCrc8 b s).lastError = s.lastError := rfl
@[simp] theorem runCrc8_crcErrCount : (runCrc8 b s).crcErrCount = s.crcErrCount := rfl
@[simp] theorem runCrc8_timeoutCount : (runCrc8 b s).timeoutCount = s.timeoutCount := rfl
@[simp] theorem runCrc8_fgCont : (runCrc8 b s).fgCont = s.fgCont := rfl
@[simp] theorem runCrc8_i2cPhase : (runCrc8 b s).i2cPhase = s.i2cPhase := rfl
@[simp] theorem runCrc8_i2cReg : (runCrc8 b s).i2cReg = s.i2cReg := rfl
@[simp] theorem runCrc8_i2cDir : (runCrc8 b s).i2cDir = s.i2cDir := rfl
@[simp] theorem runCrc8_i2cBusy : (runCrc8 b s).i2cBusy = s.i2cBusy := rfl
@[simp] theorem runCrc8_i2cErr : (runCrc8 b s).i2cErr = s.i2cErr := rfl
@[simp] theorem runCrc8_irqReason : (runCrc8 b s).irqReason = s.irqReason := rfl
@[simp] theorem runCrc8_irqRaised : (runCrc8 b s).irqRaised = s.irqRaised := rfl
@[simp] theorem runCrc8_irqHoldoff : (runCrc8 b s).irqHoldoff = s.irqHoldoff := rfl
@[simp] theorem runCrc8_irqTimer : (runCrc8 b s).irqTimer = s.irqTimer := rfl
@[simp] theorem runCrc8_lineDriverEn : (runCrc8 b s).lineDriverEn = s.lineDriverEn := rfl
@[simp] theorem runCrc8_out0 : (runCrc8 b s).out0 = s.out0 := rfl
@[simp] theorem runCrc8_out1 : (runCrc8 b s).out1 = s.out1 := rfl
@[simp] theorem runCrc8_addrProgEn : (runCrc8 b s).addrProgEn = s.addrProgEn := rfl
@[simp] theorem runCrc8_uartTxEmpty : (runCrc8 b s).uartTxEmpty = s.uartTxEmpty := rfl
@[simp] theorem runCrc8_script : (runCrc8 b s).script = s.script := rfl
@[simp] theorem runCrc8_trace : (runCrc8 b s).trace = s.trace := rfl
end Runcrc8

section Runcrc16
variable (s : State) (x : Half) (b : Bytes)
@[simp] theorem runCrc16_cfg : (runCrc16 x b s).cfg = s.cfg := rfl
@[simp] theorem runCrc16_pkt : (runCrc16 x b s).pkt = s.pkt := rfl
@[simp] theorem runCrc16_store : (runCrc16 x b s).store = s.store := rfl
@[simp] theorem runCrc16_crc8Reg : (runCrc16 x b s).crc8Reg = s.crc8Reg := rfl
@[simp] theorem runCrc16_crc16Reg : (runCrc16 x b s).crc16Reg = crc16 s.cfg x b := rfl
@[simp] theorem runCrc16_i2cVal : (runCrc16 x b s).i2cVal = s.i2cVal := rfl
@[simp] theorem runCrc16_nodeAddr : (runCrc16 x b s).nodeAddr = s.nodeAddr := rfl
@[simp] theorem runCrc16_cfgVrating : (runCrc16 x b s).cfgVrating = s.cfgVrating := rfl
@[simp] theorem runCrc16_cfgIrating : (runCrc16 x b s).cfgIrating = s.cfgIrating := rfl
@[simp] theorem runCrc16_cfgCal : (runCrc16 x b s).cfgCal = s.cfgCal := rfl
@[simp] theorem runCrc16_rxState : (runCrc16 x b s).rxState = s.rxState := rfl
@[simp] theorem runCrc16_rxEsc : (runCrc16 x b s).rxEsc = s.rxEsc := rfl
@[simp] theorem runCrc16_rxIdx : (runCrc16 x b s).rxIdx = s.rxIdx := rfl
@[simp] theorem runCrc16_rxTimeout : (runCrc16 x b s).rxTimeout = s.rxTimeout := rfl
@[simp] theorem runCrc16_pktReady : (runCrc16 x b s).pktReady = s.pktReady := rfl
@[simp] theorem runCrc16_txState : (runCrc16 x b s).txState = s.txState := rfl
@[simp] theorem runCrc16_txIdx : (runCrc16 x b s).txIdx = s.txIdx := rfl
@[simp] theorem runCrc16_txRem : (runCrc16 x b s).txRem = s.txRem := rfl
@[simp] theorem runCrc16_txBusy : (runCrc16 x b s).txBusy = s.txBusy := rfl
@[simp] theorem runCrc16_txIrqEn : (runCrc16 x b s).txIrqEn = s.txIrqEn := rfl
@[simp] theorem runCrc16_sessionState : (runCrc16 x b s).sessionState = s.sessionState := rfl
@[simp] theorem runCrc16_crc16Mode : (runCrc16 x b s).crc16Mode = s.crc16Mode := rfl
@[simp] theorem runCrc16_txLen : (runCrc16 x b s).txLen = s.txLen := rfl
@[simp] theorem runCrc16_lastError : (runCrc16 x b s).lastError = s.lastError := rfl
@[simp] theorem runCrc16_crcErrCount : (runCrc16 x b s).crcErrCount = s.crcErrCount := rfl
@[simp] theorem runCrc16_timeoutCount : (runCrc16 x b s).timeoutCount = s.timeoutCount := rfl
@[simp] theorem runCrc16_fgCont : (runCrc16 x b s).fgCont = s.fgCont := rfl
@[simp] theorem runCrc16_i2cPhase : (runCrc16 x b s).i2cPhase = s.i2cPhase := rfl
@[simp] theorem runCrc16_i2cReg : (runCrc16 x b s).i2cReg = s.i2cReg := rfl
@[simp] theorem runCrc16_i2cDir : (runCrc16 x b s).i2cDir = s.i2cDir := rfl
@[simp] theorem runCrc16_i2cBusy : (runCrc16 x b s).i2cBusy = s.i2cBusy := rfl
@[simp] theorem runCrc16_i2cErr : (runCrc16 x b s).i2cErr = s.i2cErr := rfl
@[simp] theorem runCrc16_irqReason : (runCrc16 x b s).irqReason = s.irqReason := rfl
@[simp] theorem runCrc16_irqRaised : (runCrc16 x b s).irqRaised = s.irqRaised := rfl
@[simp] theorem runCrc16_irqHoldoff : (runCrc16 x b s).irqHoldoff = s.irqHoldoff := rfl
@[simp] theorem runCrc16_irqTimer : (runCrc16 x b s).irqTimer = s.irqTimer := rfl
@[simp] theorem runCrc16_lineDriverEn : (runCrc16 x b s).lineDriverEn = s.lineDriverEn := rfl
@[simp] theorem runCrc16_out0 : (runCrc16 x b s).out0 = s.out0 := rfl
@[simp] theorem runCrc16_out1 : (runCrc16 x b s).out1 = s.out1 := rfl
@[simp] theorem runCrc16_addrProgEn : (runCrc16 x b s).addrProgEn = s.addrProgEn := rfl
@[simp] theorem runCrc16_uartTxEmpty : (runCrc16 x b s).uartTxEmpty = s.uartTxEmpty := rfl
@[simp] theorem runCrc16_script : (runCrc16 x b s).script = s.script := rfl
@[simp] theorem runCrc16_trace : (runCrc16 x b s).trace = s.trace := rfl
end Runcrc16

section Reseedholdoff
variable (s : State)
@[simp] theorem reseedHoldoff_cfg : (reseedHoldoff s).cfg = s.cfg := rfl
@[simp] theorem reseedHoldoff_pkt : (reseedHoldoff s).pkt = s.pkt := rfl
@[simp] theorem reseedHoldoff_store : (reseedHoldoff s).store = s.store := rfl
@[simp] theorem reseedHoldoff_crc8Reg : (reseedHoldoff s).crc8Reg = crc8 s.cfg [s.irqHoldoff.setWidth 8] := rfl
@[simp] theorem reseedHoldoff_crc16Reg : (reseedHoldoff s).crc16Reg = s.crc16Reg := rfl
@[simp] theorem reseedHoldoff_i2cVal : (reseedHoldoff s).i2cVal = s.i2cVal := rfl
@[simp] theorem reseedHoldoff_nodeAddr : (reseedHoldoff s).nodeAddr = s.nodeAddr := rfl
@[simp] theorem reseedHoldoff_cfgVrating : (reseedHoldoff s).cfgVrating = s.cfgVrating := rfl
@[simp] theorem reseedHoldoff_cfgIrating : (reseedHoldoff s).cfgIrating = s.cfgIrating := rfl
@[simp] theorem reseedHoldoff_cfgCal : (reseedHoldoff s).cfgCal = s.cfgCal := rfl
@[simp] theorem reseedHoldoff_rxState : (reseedHoldoff s).rxState = s.rxState := rfl
@[simp] theorem reseedHoldoff_rxEsc : (reseedHoldoff s).rxEsc = s.rxEsc := rfl
@[simp] theorem reseedHoldoff_rxIdx : (reseedHoldoff s).rxIdx = s.rxIdx := rfl
@[simp] theorem reseedHoldoff_rxTimeout : (reseedHoldoff s).rxTimeout = s.rxTimeout := rfl
@[simp] theorem reseedHoldoff_pktReady : (reseedHoldoff s).pktReady = s.pktReady := rfl
@[simp] theorem reseedHoldoff_txState : (reseedHoldoff s).txState = s.txState := rfl
@[simp] theorem reseedHoldoff_txIdx : (reseedHoldoff s).txIdx = s.txIdx := rfl
@[simp] theorem reseedHoldoff_txRem : (reseedHoldoff s).txRem = s.txRem := rfl
@[simp] theorem reseedHoldoff_txBusy : (reseedHoldoff s).txBusy = s.txBusy := rfl
@[simp] theorem reseedHoldoff_txIrqEn : (reseedHoldoff s).txIrqEn = s.txIrqEn := rfl
@[simp] theorem reseedHoldoff_sessionState : (reseedHoldoff s).sessionState = s.sessionState := rfl
@[simp] theorem reseedHoldoff_crc16Mode : (reseedHoldoff s).crc16Mode = s.crc16Mode := rfl
@[simp] theorem reseedHoldoff_txLen : (reseedHoldoff s).txLen = s.txLen := rfl
@[simp] theorem reseedHoldoff_lastError : (reseedHoldoff s).lastError = s.lastError := rfl
@[simp] theorem reseedHoldoff_crcErrCount : (reseedHoldoff s).crcErrCount = s.crcErrCount := rfl
@[simp] theorem reseedHoldoff_timeoutCount : (reseedHoldoff s).timeoutCount = s.timeoutCount := rfl
@[simp] theorem reseedHoldoff_fgCont : (reseedHoldoff s).fgCont = s.fgCont := rfl
@[simp] theorem reseedHoldoff_i2cPhase : (reseedHoldoff s).i2cPhase = s.i2cPhase := rfl
@[simp] theorem reseedHoldoff_i2cReg : (reseedHoldoff s).i2cReg = s.i2cReg := rfl
@[simp] theorem reseedHoldoff_i2cDir : (reseedHoldoff s).i2cDir = s.i2cDir := rfl
@[simp] theorem reseedHoldoff_i2cBusy : (reseedHoldoff s).i2cBusy = s.i2cBusy := rfl
@[simp] theorem reseedHoldoff_i2cErr : (reseedHoldoff s).i2cErr = s.i2cErr := rfl
@[simp] theorem reseedHoldoff_irqReason : (reseedHoldoff s).irqReason = s.irqReason := rfl
@[simp] theorem reseedHoldoff_irqRaised : (reseedHoldoff s).irqRaised = s.irqRaised := rfl
@[simp] theorem reseedHoldoff_irqHoldoff : (reseedHoldoff s).irqHoldoff = (crc8 s.cfg [s.irqHoldoff.setWidth 8]).setWidth 5 := rfl
@[simp] theorem reseedHoldoff_irqTimer : (reseedHoldoff s).irqTimer = (crc8 s.cfg [s.irqHoldoff.setWidth 8]).setWidth 5 := rfl
@[simp] theorem reseedHoldoff_lineDriverEn : (reseedHoldoff s).lineDriverEn = s.lineDriverEn := rfl
@[simp] theorem reseedHoldoff_out0 : (reseedHoldoff s).out0 = s.out0 := rfl
@[simp] theorem reseedHoldoff_out1 : (reseedHoldoff s).out1 = s.out1 := rfl
@[simp] theorem reseedHoldoff_addrProgEn : (reseedHoldoff s).addrProgEn = s.addrProgEn := rfl
@[simp] theorem reseedHoldoff_uartTxEmpty : (reseedHoldoff s).uartTxEmpty = s.uartTxEmpty := rfl
@[simp] theorem reseedHoldoff_script : (reseedHoldoff s).script = s.script := rfl
@[simp] theorem reseedHoldoff_trace : (reseedHoldoff s).trace = s.trace := rfl
end Reseedholdoff

section Raisereason
variable (s : State) (r : Byte)
@[simp] theorem raiseReason_cfg : (raiseReason r s).cfg = s.cfg := rfl
@[simp] theorem raiseReason_pkt : (raiseReason r s).pkt = s.pkt := rfl
@[simp] theorem raiseReason_store : (raiseReason r s).store = s.store := rfl
@[simp] theorem raiseReason_crc8Reg : (raiseReason r s).crc8Reg = s.crc8Reg := rfl
@[simp] theorem raiseReason_crc16Reg : (raiseReason r s).crc16Reg = s.crc16Reg := rfl
@[simp] theorem raiseReason_i2cVal : (raiseReason r s).i2cVal = s.i2cVal := rfl
@[simp] theorem raiseReason_nodeAddr : (raiseReason r s).nodeAddr = s.nodeAddr := rfl
@[simp] theorem raiseReason_cfgVrating : (raiseReason r s).cfgVrating = s.cfgVrating := rfl
@[simp] theorem raiseReason_cfgIrating : (raiseReason r s).cfgIrating = s.cfgIrating := rfl
@[simp] theorem raiseReason_cfgCal : (raiseReason r s).cfgCal = s.cfgCal := rfl
@[simp] theorem raiseReason_rxState : (raiseReason r s).rxState = s.rxState := rfl
@[simp] theorem raiseReason_rxEsc : (raiseReason r s).rxEsc = s.rxEsc := rfl
@[simp] theorem raiseReason_rxIdx : (raiseReason r s).rxIdx = s.rxIdx := rfl
@[simp] theorem raiseReason_rxTimeout : (raiseReason r s).rxTimeout = s.rxTimeout := rfl
@[simp] theorem raiseReason_pktReady : (raiseReason r s).pktReady = s.pktReady := rfl
@[simp] theorem raiseReason_txState : (raiseReason r s).txState = s.txState := rfl
@[simp] theorem raiseReason_txIdx : (raiseReason r s).txIdx = s.txIdx := rfl
@[simp] theorem raiseReason_txRem : (raiseReason r s).txRem = s.txRem := rfl
@[simp] theorem raiseReason_txBusy : (raiseReason r s).txBusy = s.txBusy := rfl
@[simp] theorem raiseReason_txIrqEn : (raiseReason r s).txIrqEn = s.txIrqEn := rfl
@[simp] theorem raiseReason_sessionState : (raiseReason r s).sessionState = s.sessionState := rfl
@[simp] theorem raiseReason_crc16Mode : (raiseReason r s).crc16Mode = s.crc16Mode := rfl
@[simp] theorem raiseReason_txLen : (raiseReason r s).txLen = s.txLen := rfl
@[simp] theorem raiseReason_lastError : (raiseReason r s).lastError = s.lastError := rfl
@[simp] theorem raiseReason_crcErrCount : (raiseReason r s).crcErrCount = s.crcErrCount := rfl
@[simp] theorem raiseReason_timeoutCount : (raiseReason r s).timeoutCount = s.timeoutCount := rfl
@[simp] theorem raiseReason_fgCont : (raiseReason r s).fgCont = s.fgCont := rfl
@[simp] theorem raiseReason_i2cPhase : (raiseReason r s).i2cPhase = s.i2cPhase := rfl
@[simp] theorem raiseReason_i2cReg : (raiseReason r s).i2cReg = s.i2cReg := rfl
@[simp] theorem raiseReason_i2cDir : (raiseReason r s).i2cDir = s.i2cDir := rfl
@[simp] theorem raiseReason_i2cBusy : (raiseReason r s).i2cBusy = s.i2cBusy := rfl
@[simp] theorem raiseReason_i2cErr : (raiseReason r s).i2cErr = s.i2cErr := rfl
@[simp] theorem raiseReason_irqReason : (raiseReason r s).irqReason = r := rfl
@[simp] theorem raiseReason_irqRaised : (raiseReason r s).irqRaised = true := rfl
@[simp] theorem raiseReason_irqHoldoff : (raiseReason r s).irqHoldoff = s.irqHoldoff := rfl
@[simp] theorem raiseReason_irqTimer : (raiseReason r s).irqTimer = s.irqHoldoff := rfl
@[simp] theorem raiseReason_lineDriverEn : (raiseReason r s).lineDriverEn = s.lineDriverEn := rfl
@[simp] theorem raiseReason_out0 : (raiseReason r s).out0 = s.out0 := rfl
@[simp] theorem raiseReason_out1 : (raiseReason r s).out1 = s.out1 := rfl
@[simp] theorem raiseReason_addrProgEn : (raiseReason r s).addrProgEn = s.addrProgEn := rfl
@[simp] theorem raiseReason_uartTxEmpty : (raiseReason r s).uartTxEmpty = s.uartTxEmpty := rfl
@[simp] theorem raiseReason_script : (raiseReason r s).script = s.script := rfl
@[simp] theorem raiseReason_trace : (raiseReason r s).trace = s.trace := rfl
end Raisereason

section Busstep
variable (s : State) (a : BusAction) (p : BitVec 4)
@[simp] theorem busStep_cfg : (busStep a p s).cfg = s.cfg := rfl
@[simp] theorem busStep_pkt : (busStep a p s).pkt = s.pkt := rfl
@[simp] theorem busStep_store : (busStep a p s).store = s.store := rfl
@[simp] theorem busStep_crc8Reg : (busStep a p s).crc8Reg = s.crc8Reg := rfl
@[simp] theorem busStep_crc16Reg : (busStep a p s).crc16Reg = s.crc16Reg := rfl
@[simp] theorem busStep_i2cVal : (busStep a p s).i2cVal = s.i2cVal := rfl
@[simp] theorem busStep_nodeAddr : (busStep a p s).nodeAddr = s.nodeAddr := rfl
@[simp] theorem busStep_cfgVrating : (busStep a p s).cfgVrating = s.cfgVrating := rfl
@[simp] theorem busStep_cfgIrating : (busStep a p s).cfgIrating = s.cfgIrating := rfl
@[simp] theorem busStep_cfgCal : (busStep a p s).cfgCal = s.cfgCal := rfl
@[simp] theorem busStep_rxState : (busStep a p s).rxState = s.rxState := rfl
@[simp] theorem busStep_rxEsc : (busStep a p s).rxEsc = s.rxEsc := rfl
@[simp] theorem busStep_rxIdx : (busStep a p s).rxIdx = s.rxIdx := rfl
@[simp] theorem busStep_rxTimeout : (busStep a p s).rxTimeout = s.rxTimeout := rfl
@[simp] theorem busStep_pktReady : (busStep a p s).pktReady = s.pktReady := rfl
@[simp] theorem busStep_txState : (busStep a p s).txState = s.txState := rfl
@[simp] theorem busStep_txIdx : (busStep a p s).txIdx = s.txIdx := rfl
@[simp] theorem busStep_txRem : (busStep a p s).txRem = s.txRem := rfl
@[simp] theorem busStep_txBusy : (busStep a p s).txBusy = s.txBusy := rfl
@[simp] theorem busStep_txIrqEn : (busStep a p s).txIrqEn = s.txIrqEn := rfl
@[simp] theorem busStep_sessionState : (busStep a p s).sessionState = s.sessionState := rfl
@[simp] theorem busStep_crc16Mode : (busStep a p s).crc16Mode = s.crc16Mode := rfl
@[simp] theorem busStep_txLen : (busStep a p s).txLen = s.txLen := rfl
@[simp] theorem busStep_lastError : (busStep a p s).lastError = s.lastError := rfl
@[simp] theorem busStep_crcErrCount : (busStep a p s).crcErrCount = s.crcErrCount := rfl
@[simp] theorem busStep_timeoutCount : (busStep a p s).timeoutCount = s.timeoutCount := rfl
@[simp] theorem busStep_fgCont : (busStep a p s).fgCont = s.fgCont := rfl
@[simp] theorem busStep_i2cPhase : (busStep a p s).i2cPhase = p := rfl
@[simp] theorem busStep_i2cReg : (busStep a p s).i2cReg = s.i2cReg := rfl
@[simp] theorem busStep_i2cDir : (busStep a p s).i2cDir = s.i2cDir := rfl
@[simp] theorem busStep_i2cBusy : (busStep a p s).i2cBusy = s.i2cBusy := rfl
@[simp] theorem busStep_i2cErr : (busStep a p s).i2cErr = s.i2cErr := rfl
@[simp] theorem busStep_irqReason : (busStep a p s).irqReason = s.irqReason := rfl
@[simp] theorem busStep_irqRaised : (busStep a p s).irqRaised = s.irqRaised := rfl
@[simp] theorem busStep_irqHoldoff : (busStep a p s).irqHoldoff = s.irqHoldoff := rfl
@[simp] theorem busStep_irqTimer : (busStep a p s).irqTimer = s.irqTimer := rfl
@[simp] theorem busStep_lineDriverEn : (busStep a p s).lineDriverEn = s.lineDriverEn := rfl
@[simp] theorem busStep_out0 : (busStep a p s).out0 = s.out0 := rfl
@[simp] theorem busStep_out1 : (busStep a p s).out1 = s.out1 := rfl
@[simp] theorem busStep_addrProgEn : (busStep a p s).addrProgEn = s.addrProgEn := rfl
@[simp] theorem busStep_uartTxEmpty : (busStep a p s).uartTxEmpty = s.uartTxEmpty := rfl
@[simp] theorem busStep_script : (busStep a p s).script = s.script := rfl
@[simp] theorem busStep_trace : (busStep a p s).trace = s.trace ++ [.bus a] := rfl
end Busstep

section Busdone
variable (s : State)
@[simp] theorem busDone_cfg : (busDone s).cfg = s.cfg := rfl
@[simp] theorem busDone_pkt : (busDone s).pkt = s.pkt := rfl
@[simp] theorem busDone_store : (busDone s).store = s.store := rfl
@[simp] theorem busDone_crc8Reg : (busDone s).crc8Reg = s.crc8Reg := rfl
@[simp] theorem busDone_crc16Reg : (busDone s).crc16Reg = s.crc16Reg := rfl
@[simp] theorem busDone_i2cVal : (busDone s).i2cVal = s.i2cVal := rfl
@[simp] theorem busDone_nodeAddr : (busDone s).nodeAddr = s.nodeAddr := rfl
@[simp] theorem busDone_cfgVrating : (busDone s).cfgVrating = s.cfgVrating := rfl
@[simp] theorem busDone_cfgIrating : (busDone s).cfgIrating = s.cfgIrating := rfl
@[simp] theorem busDone_cfgCal : (busDone s).cfgCal = s.cfgCal := rfl
@[simp] theorem busDone_rxState : (busDone s).rxState = s.rxState := rfl
@[simp] theorem busDone_rxEsc : (busDone s).rxEsc = s.rxEsc := rfl
@[simp] theorem busDone_rxIdx : (busDone s).rxIdx = s.rxIdx := rfl
@[simp] theorem busDone_rxTimeout : (busDone s).rxTimeout = s.rxTimeout := rfl
@[simp] theorem busDone_pktReady : (busDone s).pktReady = s.pktReady := rfl
@[simp] theorem busDone_txState : (busDone s).txState = s.txState := rfl
@[simp] theorem busDone_txIdx : (busDone s).txIdx = s.txIdx := rfl
@[simp] theorem busDone_txRem : (busDone s).txRem = s.txRem := rfl
@[simp] theorem busDone_txBusy : (busDone s).txBusy = s.txBusy := rfl
@[simp] theorem busDone_txIrqEn : (busDone s).txIrqEn = s.txIrqEn := rfl
@[simp] theorem busDone_sessionState : (busDone s).sessionState = s.sessionState := rfl
@[simp] theorem busDone_crc16Mode : (busDone s).crc16Mode = s.crc16Mode := rfl
@[simp] theorem busDone_txLen : (busDone s).txLen = s.txLen := rfl
@[simp] theorem busDone_lastError : (busDone s).lastError = s.lastError := rfl
@[simp] theorem busDone_crcErrCount : (busDone s).crcErrCount = s.crcErrCount := rfl
@[simp] theorem busDone_timeoutCount : (busDone s).timeoutCount = s.timeoutCount := rfl
@[simp] theorem busDone_fgCont : (busDone s).fgCont = s.fgCont := rfl
@[simp] theorem busDone_i2cPhase : (busDone s).i2cPhase = 0 := rfl
@[simp] theorem busDone_i2cReg : (busDone s).i2cReg = s.i2cReg := rfl
@[simp] theorem busDone_i2cDir : (busDone s).i2cDir = s.i2cDir := rfl
@[simp] theorem busDone_i2cBusy : (busDone s).i2cBusy = false := rfl
@[simp] theorem busDone_i2cErr : (busDone s).i2cErr = s.i2cErr := rfl
@[simp] theorem busDone_irqReason : (busDone s).irqReason = s.irqReason := rfl
@[simp] theorem busDone_irqRaised : (busDone s).irqRaised = s.irqRaised := rfl
@[simp] theorem busDone_irqHoldoff : (busDone s).irqHoldoff = s.irqHoldoff := rfl
@[simp] theorem busDone_irqTimer : (busDone s).irqTimer = s.irqTimer := rfl
@[simp] theorem busDone_lineDriverEn : (busDone s).lineDriverEn = s.lineDriverEn := rfl
@[simp] theorem busDone_out0 : (busDone s).out0 = s.out0 := rfl
@[simp] theorem busDone_out1 : (busDone s).out1 = s.out1 := rfl
@[simp] theorem busDone_addrProgEn : (busDone s).addrProgEn = s.addrProgEn := rfl
@[simp] theorem busDone_uartTxEmpty : (busDone s).uartTxEmpty = s.uartTxEmpty := rfl
@[simp] theorem busDone_script : (busDone s).script = s.script := rfl
@[simp] theorem busDone_trace : (busDone s).trace = s.trace ++ [.bus .stop] := rfl
end Busdone

section I2cstart
variable (s : State) (d : Dir) (r : Byte) (x : Half)
@[simp] theorem i2cStart_cfg : (i2cStart d r x s).cfg = s.cfg := rfl
@[simp] theorem i2cStart_pkt : (i2cStart d r x s).pkt = s.pkt := rfl
@[simp] theorem i2cStart_store : (i2cStart d r x s).store = s.store := rfl
@[simp] theorem i2cStart_crc8Reg : (i2cStart d r x s).crc8Reg = s.crc8Reg := rfl
@[simp] theorem i2cStart_crc16Reg : (i2cStart d r x s).crc16Reg = s.crc16Reg := rfl
@[simp] theorem i2cStart_i2cVal : (i2cStart d r x s).i2cVal = match d with | .write => x | .read => s.i2cVal := rfl
@[simp] theorem i2cStart_nodeAddr : (i2cStart d r x s).nodeAddr = s.nodeAddr := rfl
@[simp] theorem i2cStart_cfgVrating : (i2cStart d r x s).cfgVrating = s.cfgVrating := rfl
@[simp] theorem i2cStart_cfgIrating : (i2cStart d r x s).cfgIrating = s.cfgIrating := rfl
@[simp] theorem i2cStart_cfgCal : (i2cStart d r x s).cfgCal = s.cfgCal := rfl
@[simp] theorem i2cStart_rxState : (i2cStart d r x s).rxState = s.rxState := rfl
@[simp] theorem i2cStart_rxEsc : (i2cStart d r x s).rxEsc = s.rxEsc := rfl
@[simp] theorem i2cStart_rxIdx : (i2cStart d r x s).rxIdx = s.rxIdx := rfl
@[simp] theorem i2cStart_rxTimeout : (i2cStart d r x s).rxTimeout = s.rxTimeout := rfl
@[simp] theorem i2cStart_pktReady : (i2cStart d r x s).pktReady = s.pktReady := rfl
@[simp] theorem i2cStart_txState : (i2cStart d r x s).txState = s.txState := rfl
@[simp] theorem i2cStart_txIdx : (i2cStart d r x s).txIdx = s.txIdx := rfl
@[simp] theorem i2cStart_txRem : (i2cStart d r x s).txRem = s.txRem := rfl
@[simp] theorem i2cStart_txBusy : (i2cStart d r x s).txBusy = s.txBusy := rfl
@[simp] theorem i2cStart_txIrqEn : (i2cStart d r x s).txIrqEn = s.txIrqEn := rfl
@[simp] theorem i2cStart_sessionState : (i2cStart d r x s).sessionState = s.sessionState := rfl
@[simp] theorem i2cStart_crc16Mode : (i2cStart d r x s).crc16Mode = s.crc16Mode := rfl
@[simp] theorem i2cStart_txLen : (i2cStart d r x s).txLen = s.txLen := rfl
@[simp] theorem i2cStart_lastError : (i2cStart d r x s).lastError = s.lastError := rfl
@[simp] theorem i2cStart_crcErrCount : (i2cStart d r x s).crcErrCount = s.crcErrCount := rfl
@[simp] theorem i2cStart_timeoutCount : (i2cStart d r x s).timeoutCount = s.timeoutCount := rfl
@[simp] theorem i2cStart_fgCont : (i2cStart d r x s).fgCont = s.fgCont := rfl
@[simp] theorem i2cStart_i2cPhase : (i2cStart d r x s).i2cPhase = 0 := rfl
@[simp] theorem i2cStart_i2cReg : (i2cStart d r x s).i2cReg = r := rfl
@[simp] theorem i2cStart_i2cDir : (i2cStart d r x s).i2cDir = d := rfl
@[simp] theorem i2cStart_i2cBusy : (i2cStart d r x s).i2cBusy = true := rfl
@[simp] theorem i2cStart_i2cErr : (i2cStart d r x s).i2cErr = false := rfl
@[simp] theorem i2cStart_irqReason : (i2cStart d r x s).irqReason = s.irqReason := rfl
@[simp] theorem i2cStart_irqRaised : (i2cStart d r x s).irqRaised = s.irqRaised := rfl
@[simp] theorem i2cStart_irqHoldoff : (i2cStart d r x s).irqHoldoff = s.irqHoldoff := rfl
@[simp] theorem i2cStart_irqTimer : (i2cStart d r x s).irqTimer = s.irqTimer := rfl
@[simp] theorem i2cStart_lineDriverEn : (i2cStart d r x s).lineDriverEn = s.lineDriverEn := rfl
@[simp] theorem i2cStart_out0 : (i2cStart d r x s).out0 = s.out0 := rfl
@[simp] theorem i2cStart_out1 : (i2cStart d r x s).out1 = s.out1 := rfl
@[simp] theorem i2cStart_addrProgEn : (i2cStart d r x s).addrProgEn = s.addrProgEn := rfl
@[simp] theorem i2cStart_uartTxEmpty : (i2cStart d r x s).uartTxEmpty = s.uartTxEmpty := rfl
@[simp] theorem i2cStart_script : (i2cStart d r x s).script = s.script := rfl
@[simp] theorem i2cStart_trace : (i2cStart d r x s).trace = s.trace ++ [.bus .start] := rfl
end I2cstart

section Assignaddress
variable (s : State) (a : Byte)
@[simp] theorem assignAddress_cfg : (assignAddress a s).cfg = s.cfg := rfl
@[simp] theorem assignAddress_pkt : (assignAddress a s).pkt = s.pkt := rfl
@[simp] theorem assignAddress_store : (assignAddress a s).store = s.store.write .store s.cfg.addrOffset a := rfl
@[simp] theorem assignAddress_crc8Reg : (assignAddress a s).crc8Reg = s.crc8Reg := rfl
@[simp] theorem assignAddress_crc16Reg : (assignAddress a s).crc16Reg = s.crc16Reg := rfl
@[simp] theorem assignAddress_i2cVal : (assignAddress a s).i2cVal = s.i2cVal := rfl
@[simp] theorem assignAddress_nodeAddr : (assignAddress a s).nodeAddr = a := rfl
@[simp] theorem assignAddress_cfgVrating : (assignAddress a s).cfgVrating = s.cfgVrating := rfl
@[simp] theorem assignAddress_cfgIrating : (assignAddress a s).cfgIrating = s.cfgIrating := rfl
@[simp] theorem assignAddress_cfgCal : (assignAddress a s).cfgCal = s.cfgCal := rfl
@[simp] theorem assignAddress_rxState : (assignAddress a s).rxState = s.rxState := rfl
@[simp] theorem assignAddress_rxEsc : (assignAddress a s).rxEsc = s.rxEsc := rfl
@[simp] theorem assignAddress_rxIdx : (assignAddress a s).rxIdx = s.rxIdx := rfl
@[simp] theorem assignAddress_rxTimeout : (assignAddress a s).rxTimeout = s.rxTimeout := rfl
@[simp] theorem assignAddress_pktReady : (assignAddress a s).pktReady = s.pktReady := rfl
@[simp] theorem assignAddress_txState : (assignAddress a s).txState = s.txState := rfl
@[simp] theorem assignAddress_txIdx : (assignAddress a s).txIdx = s.txIdx := rfl
@[simp] theorem assignAddress_txRem : (assignAddress a s).txRem = s.txRem := rfl
@[simp] theorem assignAddress_txBusy : (assignAddress a s).txBusy = s.txBusy := rfl
@[simp] theorem assignAddress_txIrqEn : (assignAddress a s).txIrqEn = s.txIrqEn := rfl
@[simp] theorem assignAddress_sessionState : (assignAddress a s).sessionState = s.sessionState := rfl
@[simp] theorem assignAddress_crc16Mode : (assignAddress a s).crc16Mode = s.crc16Mode := rfl
@[simp] theorem assignAddress_txLen : (assignAddress a s).txLen = s.txLen := rfl
@[simp] theorem assignAddress_lastError : (assignAddress a s).lastError = s.lastError := rfl
@[simp] theorem assignAddress_crcErrCount : (assignAddress a s).crcErrCount = s.crcErrCount := rfl
@[simp] theorem assignAddress_timeoutCount : (assignAddress a s).timeoutCount = s.timeoutCount := rfl
@[simp] theorem assignAddress_fgCont : (assignAddress a s).fgCont = s.fgCont := rfl
@[simp] theorem assignAddress_i2cPhase : (assignAddress a s).i2cPhase = s.i2cPhase := rfl
@[simp] theorem assignAddress_i2cReg : (assignAddress a s).i2cReg = s.i2cReg := rfl
@[simp] theorem assignAddress_i2cDir : (assignAddress a s).i2cDir = s.i2cDir := rfl
@[simp] theorem assignAddress_i2cBusy : (assignAddress a s).i2cBusy = s.i2cBusy := rfl
@[simp] theorem assignAddress_i2cErr : (assignAddress a s).i2cErr = s.i2cErr := rfl
@[simp] theorem assignAddress_irqReason : (assignAddress a s).irqReason = s.irqReason := rfl
@[simp] theorem assignAddress_irqRaised : (assignAddress a s).irqRaised = s.irqRaised := rfl
@[simp] theorem assignAddress_irqHoldoff : (assignAddress a s).irqHoldoff = s.irqHoldoff := rfl
@[simp] theorem assignAddress_irqTimer : (assignAddress a s).irqTimer = s.irqTimer := rfl
@[simp] theorem assignAddress_lineDriverEn : (assignAddress a s).lineDriverEn = s.lineDriverEn := rfl
@[simp] theorem assignAddress_out0 : (assignAddress a s).out0 = s.out0 := rfl
@[simp] theorem assignAddress_out1 : (assignAddress a s).out1 = s.out1 := rfl
@[simp] theorem assignAddress_addrProgEn : (assignAddress a s).addrProgEn = s.addrProgEn := rfl
@[simp] theorem assignAddress_uartTxEmpty : (assignAddress a s).uartTxEmpty = s.uartTxEmpty := rfl
@[simp] theorem assignAddress_script : (assignAddress a s).script = s.script := rfl
@[simp] theorem assignAddress_trace : (assignAddress a s).trace = s.trace ++ [.storeWrite s.cfg.addrOffset a] := rfl
end Assignaddress

section Finishcommand
variable (s : State) (e : Byte)
@[simp] theorem finishCommand_cfg : (finishCommand e s).cfg = s.cfg := rfl
@[simp] theorem finishCommand_pkt : (finishCommand e s).pkt = s.pkt := rfl
@[simp] theorem finishCommand_store : (finishCommand e s).store = s.store := rfl
@[simp] theorem finishCommand_crc8Reg : (finishCommand e s).crc8Reg = s.crc8Reg := rfl
@[simp] theorem finishCommand_crc16Reg : (finishCommand e s).crc16Reg = s.crc16Reg := rfl
@[simp] theorem finishCommand_i2cVal : (finishCommand e s).i2cVal = s.i2cVal := rfl
@[simp] theorem finishCommand_nodeAddr : (finishCommand e s).nodeAddr = s.nodeAddr := rfl
@[simp] theorem finishCommand_cfgVrating : (finishCommand e s).cfgVrating = s.cfgVrating := rfl
@[simp] theorem finishCommand_cfgIrating : (finishCommand e s).cfgIrating = s.cfgIrating := rfl
@[simp] theorem finishCommand_cfgCal : (finishCommand e s).cfgCal = s.cfgCal := rfl
@[simp] theorem finishCommand_rxState : (finishCommand e s).rxState = s.rxState := rfl
@[simp] theorem finishCommand_rxEsc : (finishCommand e s).rxEsc = s.rxEsc := rfl
@[simp] theorem finishCommand_rxIdx : (finishCommand e s).rxIdx = s.rxIdx := rfl
@[simp] theorem finishCommand_rxTimeout : (finishCommand e s).rxTimeout = s.rxTimeout := rfl
@[simp] theorem finishCommand_pktReady : (finishCommand e s).pktReady = s.pktReady := rfl
@[simp] theorem finishCommand_txState : (finishCommand e s).txState = s.txState := rfl
@[simp] theorem finishCommand_txIdx : (finishCommand e s).txIdx = s.txIdx := rfl
@[simp] theorem finishCommand_txRem : (finishCommand e s).txRem = s.txRem := rfl
@[simp] theorem finishCommand_txBusy : (finishCommand e s).txBusy = s.txBusy := rfl
@[simp] theorem finishCommand_txIrqEn : (finishCommand e s).txIrqEn = s.txIrqEn := rfl
@[simp] theorem finishCommand_sessionState : (finishCommand e s).sessionState = .respond := rfl
@[simp] theorem finishCommand_crc16Mode : (finishCommand e s).crc16Mode = s.crc16Mode := rfl
@[simp] theorem finishCommand_txLen : (finishCommand e s).txLen = s.txLen := rfl
@[simp] theorem finishCommand_lastError : (finishCommand e s).lastError = e := rfl
@[simp] theorem finishCommand_crcErrCount : (finishCommand e s).crcErrCount = s.crcErrCount := rfl
@[simp] theorem finishCommand_timeoutCount : (finishCommand e s).timeoutCount = s.timeoutCount := rfl
@[simp] theorem finishCommand_fgCont : (finishCommand e s).fgCont = s.fgCont := rfl
@[simp] theorem finishCommand_i2cPhase : (finishCommand e s).i2cPhase = s.i2cPhase := rfl
@[simp] theorem finishCommand_i2cReg : (finishCommand e s).i2cReg = s.i2cReg := rfl
@[simp] theorem finishCommand_i2cDir : (finishCommand e s).i2cDir = s.i2cDir := rfl
@[simp] theorem finishCommand_i2cBusy : (finishCommand e s).i2cBusy = s.i2cBusy := rfl
@[simp] theorem finishCommand_i2cErr : (finishCommand e s).i2cErr = s.i2cErr := rfl
@[simp] theorem finishCommand_irqReason : (finishCommand e s).irqReason = s.irqReason := rfl
@[simp] theorem finishCommand_irqRaised : (finishCommand e s).irqRaised = s.irqRaised := rfl
@[simp] theorem finishCommand_irqHoldoff : (finishCommand e s).irqHoldoff = s.irqHoldoff := rfl
@[simp] theorem finishCommand_irqTimer : (finishCommand e s).irqTimer = s.irqTimer := rfl
@[simp] theorem finishCommand_lineDriverEn : (finishCommand e s).lineDriverEn = s.lineDriverEn := rfl
@[simp] theorem finishCommand_out0 : (finishCommand e s).out0 = s.out0 := rfl
@[simp] theorem finishCommand_out1 : (finishCommand e s).out1 = s.out1 := rfl
@[simp] theorem finishCommand_addrProgEn : (finishCommand e s).addrProgEn = s.addrProgEn := rfl
@[simp] theorem finishCommand_uartTxEmpty : (finishCommand e s).uartTxEmpty = s.uartTxEmpty := rfl
@[simp] theorem finishCommand_script : (finishCommand e s).script = s.script := rfl
@[simp] theorem finishCommand_trace : (finishCommand e s).trace = s.trace := rfl
end Finishcommand

section Countcrcerror
variable (s : State)
@[simp] theorem countCrcError_cfg : (countCrcError s).cfg = s.cfg := rfl
@[simp] theorem countCrcError_pkt : (countCrcError s).pkt = s.pkt := rfl
@[simp] theorem countCrcError_store : (countCrcError s).store = s.store := rfl
@[simp] theorem countCrcError_crc8Reg : (countCrcError s).crc8Reg = s.crc8Reg := rfl
@[simp] theorem countCrcError_crc16Reg : (countCrcError s).crc16Reg = s.crc16Reg := rfl
@[simp] theorem countCrcError_i2cVal : (countCrcError s).i2cVal = s.i2cVal := rfl
@[simp] theorem countCrcError_nodeAddr : (countCrcError s).nodeAddr = s.nodeAddr := rfl
@[simp] theorem countCrcError_cfgVrating : (countCrcError s).cfgVrating = s.cfgVrating := rfl
@[simp] theorem countCrcError_cfgIrating : (countCrcError s).cfgIrating = s.cfgIrating := rfl
@[simp] theorem countCrcError_cfgCal : (countCrcError s).cfgCal = s.cfgCal := rfl
@[simp] theorem countCrcError_rxState : (countCrcError s).rxState = s.rxState := rfl
@[simp] theorem countCrcError_rxEsc : (countCrcError s).rxEsc = s.rxEsc := rfl
@[simp] theorem countCrcError_rxIdx : (countCrcError s).rxIdx = s.rxIdx := rfl
@[simp] theorem countCrcError_rxTimeout : (countCrcError s).rxTimeout = s.rxTimeout := rfl
@[simp] theorem countCrcError_pktReady : (countCrcError s).pktReady = s.pktReady := rfl
@[simp] theorem countCrcError_txState : (countCrcError s).txState = s.txState := rfl
@[simp] theorem countCrcError_txIdx : (countCrcError s).txIdx = s.txIdx := rfl
@[simp] theorem countCrcError_txRem : (countCrcError s).txRem = s.txRem := rfl
@[simp] theorem countCrcError_txBusy : (countCrcError s).txBusy = s.txBusy := rfl
@[simp] theorem countCrcError_txIrqEn : (countCrcError s).txIrqEn = s.txIrqEn := rfl
@[simp] theorem countCrcError_sessionState : (countCrcError s).sessionState = s.sessionState := rfl
@[simp] theorem countCrcError_crc16Mode : (countCrcError s).crc16Mode = s.crc16Mode := rfl
@[simp] theorem countCrcError_txLen : (countCrcError s).txLen = s.txLen := rfl
@[simp] theorem countCrcError_lastError : (countCrcError s).lastError = s.lastError := rfl
@[simp] theorem countCrcError_crcErrCount : (countCrcError s).crcErrCount = s.crcErrCount + 1 := rfl
@[simp] theorem countCrcError_timeoutCount : (countCrcError s).timeoutCount = s.timeoutCount := rfl
@[simp] theorem countCrcError_fgCont : (countCrcError s).fgCont = s.fgCont := rfl
@[simp] theorem countCrcError_i2cPhase : (countCrcError s).i2cPhase = s.i2cPhase := rfl
@[simp] theorem countCrcError_i2cReg : (countCrcError s).i2cReg = s.i2cReg := rfl
@[simp] theorem countCrcError_i2cDir : (countCrcError s).i2cDir = s.i2cDir := rfl
@[simp] theorem countCrcError_i2cBusy : (countCrcError s).i2cBusy = s.i2cBusy := rfl
@[simp] theorem countCrcError_i2cErr : (countCrcError s).i2cErr = s.i2cErr := rfl
@[simp] theorem countCrcError_irqReason : (countCrcError s).irqReason = s.irqReason := rfl
@[simp] theorem countCrcError_irqRaised : (countCrcError s).irqRaised = s.irqRaised := rfl
@[simp] theorem countCrcError_irqHoldoff : (countCrcError s).irqHoldoff = s.irqHoldoff := rfl
@[simp] theorem countCrcError_irqTimer : (countCrcError s).irqTimer = s.irqTimer := rfl
@[simp] theorem countCrcError_lineDriverEn : (countCrcError s).lineDriverEn = s.lineDriverEn := rfl
@[simp] theorem countCrcError_out0 : (countCrcError s).out0 = s.out0 := rfl
@[simp] theorem countCrcError_out1 : (countCrcError s).out1 = s.out1 := rfl
@[simp] theorem countCrcError_addrProgEn : (countCrcError s).addrProgEn = s.addrProgEn := rfl
@[simp] theorem countCrcError_uartTxEmpty : (countCrcError s).uartTxEmpty = s.uartTxEmpty := rfl
@[simp] theorem countCrcError_script : (countCrcError s).script = s.script := rfl
@[simp] theorem countCrcError_trace : (countCrcError s).trace = s.trace := rfl
end Countcrcerror

section Counttimeout
variable (s : State)
@[simp] theorem countTimeout_cfg : (countTimeout s).cfg = s.cfg := rfl
@[simp] theorem countTimeout_pkt : (countTimeout s).pkt = s.pkt := rfl
@[simp] theorem countTimeout_store : (countTimeout s).store = s.store := rfl
@[simp] theorem countTimeout_crc8Reg : (countTimeout s).crc8Reg = s.crc8Reg := rfl
@[simp] theorem countTimeout_crc16Reg : (countTimeout s).crc16Reg = s.crc16Reg := rfl
@[simp] theorem countTimeout_i2cVal : (countTimeout s).i2cVal = s.i2cVal := rfl
@[simp] theorem countTimeout_nodeAddr : (countTimeout s).nodeAddr = s.nodeAddr := rfl
@[simp] theorem countTimeout_cfgVrating : (countTimeout s).cfgVrating = s.cfgVrating := rfl
@[simp] theorem countTimeout_cfgIrating : (countTimeout s).cfgIrating = s.cfgIrating := rfl
@[simp] theorem countTimeout_cfgCal : (countTimeout s).cfgCal = s.cfgCal := rfl
@[simp] theorem countTimeout_rxState : (countTimeout s).rxState = s.rxState := rfl
@[simp] theorem countTimeout_rxEsc : (countTimeout s).rxEsc = s.rxEsc := rfl
@[simp] theorem countTimeout_rxIdx : (countTimeout s).rxIdx = s.rxIdx := rfl
@[simp] theorem countTimeout_rxTimeout : (countTimeout s).rxTimeout = s.rxTimeout := rfl
@[simp] theorem countTimeout_pktReady : (countTimeout s).pktReady = s.pktReady := rfl
@[simp] theorem countTimeout_txState : (countTimeout s).txState = s.txState := rfl
@[simp] theorem countTimeout_txIdx : (countTimeout s).txIdx = s.txIdx := rfl
@[simp] theorem countTimeout_txRem : (countTimeout s).txRem = s.txRem := rfl
@[simp] theorem countTimeout_txBusy : (countTimeout s).txBusy = s.txBusy := rfl
@[simp] theorem countTimeout_txIrqEn : (countTimeout s).txIrqEn = s.txIrqEn := rfl
@[simp] theorem countTimeout_sessionState : (countTimeout s).sessionState = s.sessionState := rfl
@[simp] theorem countTimeout_crc16Mode : (countTimeout s).crc16Mode = s.crc16Mode := rfl
@[simp] theorem countTimeout_txLen : (countTimeout s).txLen = s.txLen := rfl
@[simp] theorem countTimeout_lastError : (countTimeout s).lastError = s.lastError := rfl
@[simp] theorem countTimeout_crcErrCount : (countTimeout s).crcErrCount = s.crcErrCount := rfl
@[simp] theorem countTimeout_timeoutCount : (countTimeout s).timeoutCount = s.timeoutCount + 1 := rfl
@[simp] theorem countTimeout_fgCont : (countTimeout s).fgCont = s.fgCont := rfl
@[simp] theorem countTimeout_i2cPhase : (countTimeout s).i2cPhase = s.i2cPhase := rfl
@[simp] theorem countTimeout_i2cReg : (countTimeout s).i2cReg = s.i2cReg := rfl
@[simp] theorem countTimeout_i2cDir : (countTimeout s).i2cDir = s.i2cDir := rfl
@[simp] theorem countTimeout_i2cBusy : (countTimeout s).i2cBusy = s.i2cBusy := rfl
@[simp] theorem countTimeout_i2cErr : (countTimeout s).i2cErr = s.i2cErr := rfl
@[simp] theorem countTimeout_irqReason : (countTimeout s).irqReason = s.irqReason := rfl
@[simp] theorem countTimeout_irqRaised : (countTimeout s).irqRaised = s.irqRaised := rfl
@[simp] theorem countTimeout_irqHoldoff : (countTimeout s).irqHoldoff = s.irqHoldoff := rfl
@[simp] theorem countTimeout_irqTimer : (countTimeout s).irqTimer = s.irqTimer := rfl
@[simp] theorem countTimeout_lineDriverEn : (countTimeout s).lineDriverEn = s.lineDriverEn := rfl
@[simp] theorem countTimeout_out0 : (countTimeout s).out0 = s.out0 := rfl
@[simp] theorem countTimeout_out1 : (countTimeout s).out1 = s.out1 := rfl
@[simp] theorem countTimeout_addrProgEn : (countTimeout s).addrProgEn = s.addrProgEn := rfl
@[simp] theorem countTimeout_uartTxEmpty : (countTimeout s).uartTxEmpty = s.uartTxEmpty := rfl
@[simp] theorem countTimeout_script : (countTimeout s).script = s.script := rfl
@[simp] theorem countTimeout_trace : (countTimeout s).trace = s.trace := rfl
end Counttimeout

section Datasent
variable (s : State)
@[simp] theorem dataSent_cfg : (dataSent s).cfg = s.cfg := rfl
@[simp] theorem dataSent_pkt : (dataSent s).pkt = s.pkt := rfl
@[simp] theorem dataSent_store : (dataSent s).store = s.store := rfl
@[simp] theorem dataSent_crc8Reg : (dataSent s).crc8Reg = s.crc8Reg := rfl
@[simp] theorem dataSent_crc16Reg : (dataSent s).crc16Reg = s.crc16Reg := rfl
@[simp] theorem dataSent_i2cVal : (dataSent s).i2cVal = s.i2cVal := rfl
@[simp] theorem dataSent_nodeAddr : (dataSent s).nodeAddr = s.nodeAddr := rfl
@[simp] theorem dataSent_cfgVrating : (dataSent s).cfgVrating = s.cfgVrating := rfl
@[simp] theorem dataSent_cfgIrating : (dataSent s).cfgIrating = s.cfgIrating := rfl
@[simp] theorem dataSent_cfgCal : (dataSent s).cfgCal = s.cfgCal := rfl
@[simp] theorem dataSent_rxState : (dataSent s).rxState = s.rxState := rfl
@[simp] theorem dataSent_rxEsc : (dataSent s).rxEsc = s.rxEsc := rfl
@[simp] theorem dataSent_rxIdx : (dataSent s).rxIdx = s.rxIdx := rfl
@[simp] theorem dataSent_rxTimeout : (dataSent s).rxTimeout = s.rxTimeout := rfl
@[simp] theorem dataSent_pktReady : (dataSent s).pktReady = s.pktReady := rfl
@[simp] theorem dataSent_txState : (dataSent s).txState = if s.txRem - 1 = 0 then .done else .sending := rfl
@[simp] theorem dataSent_txIdx : (dataSent s).txIdx = s.txIdx + 1 := rfl
@[simp] theorem dataSent_txRem : (dataSent s).txRem = s.txRem - 1 := rfl
@[simp] theorem dataSent_txBusy : (dataSent s).txBusy = s.txBusy := rfl
@[simp] theorem dataSent_txIrqEn : (dataSent s).txIrqEn = s.txIrqEn := rfl
@[simp] theorem dataSent_sessionState : (dataSent s).sessionState = s.sessionState := rfl
@[simp] theorem dataSent_crc16Mode : (dataSent s).crc16Mode = s.crc16Mode := rfl
@[simp] theorem dataSent_txLen : (dataSent s).txLen = s.txLen := rfl
@[simp] theorem dataSent_lastError : (dataSent s).lastError = s.lastError := rfl
@[simp] theorem dataSent_crcErrCount : (dataSent s).crcErrCount = s.crcErrCount := rfl
@[simp] theorem dataSent_timeoutCount : (dataSent s).timeoutCount = s.timeoutCount := rfl
@[simp] theorem dataSent_fgCont : (dataSent s).fgCont = s.fgCont := rfl
@[simp] theorem dataSent_i2cPhase : (dataSent s).i2cPhase = s.i2cPhase := rfl
@[simp] theorem dataSent_i2cReg : (dataSent s).i2cReg = s.i2cReg := rfl
@[simp] theorem dataSent_i2cDir : (dataSent s).i2cDir = s.i2cDir := rfl
@[simp] theorem dataSent_i2cBusy : (dataSent s).i2cBusy = s.i2cBusy := rfl
@[simp] theorem dataSent_i2cErr : (dataSent s).i2cErr = s.i2cErr := rfl
@[simp] theorem dataSent_irqReason : (dataSent s).irqReason = s.irqReason := rfl
@[simp] theorem dataSent_irqRaised : (dataSent s).irqRaised = s.irqRaised := rfl
@[simp] theorem dataSent_irqHoldoff : (dataSent s).irqHoldoff = s.irqHoldoff := rfl
@[simp] theorem dataSent_irqTimer : (dataSent s).irqTimer = s.irqTimer := rfl
@[simp] theorem dataSent_lineDriverEn : (dataSent s).lineDriverEn = s.lineDriverEn := rfl
@[simp] theorem dataSent_out0 : (dataSent s).out0 = s.out0 := rfl
@[simp] theorem dataSent_out1 : (dataSent s).out1 = s.out1 := rfl
@[simp] theorem dataSent_addrProgEn : (dataSent s).addrProgEn = s.addrProgEn := rfl
@[simp] theorem dataSent_uartTxEmpty : (dataSent s).uartTxEmpty = s.uartTxEmpty := rfl
@[simp] theorem dataSent_script : (dataSent s).script = s.script := rfl
@[simp] theorem dataSent_trace : (dataSent s).trace = s.trace := rfl
end Datasent

section Armtransmitter
variable (s : State)
@[simp] theorem armTransmitter_cfg : (armTransmitter s).cfg = s.cfg := rfl
@[simp] theorem armTransmitter_pkt : (armTransmitter s).pkt = s.pkt := rfl
@[simp] theorem armTransmitter_store : (armTransmitter s).store = s.store := rfl
@[simp] theorem armTransmitter_crc8Reg : (armTransmitter s).crc8Reg = s.crc8Reg := rfl
@[simp] theorem armTransmitter_crc16Reg : (armTransmitter s).crc16Reg = s.crc16Reg := rfl
@[simp] theorem armTransmitter_i2cVal : (armTransmitter s).i2cVal = s.i2cVal := rfl
@[simp] theorem armTransmitter_nodeAddr : (armTransmitter s).nodeAddr = s.nodeAddr := rfl
@[simp] theorem armTransmitter_cfgVrating : (armTransmitter s).cfgVrating = s.cfgVrating := rfl
@[simp] theorem armTransmitter_cfgIrating : (armTransmitter s).cfgIrating = s.cfgIrating := rfl
@[simp] theorem armTransmitter_cfgCal : (armTransmitter s).cfgCal = s.cfgCal := rfl
@[simp] theorem armTransmitter_rxState : (armTransmitter s).rxState = s.rxState := rfl
@[simp] theorem armTransmitter_rxEsc : (armTransmitter s).rxEsc = s.rxEsc := rfl
@[simp] theorem armTransmitter_rxIdx : (armTransmitter s).rxIdx = s.rxIdx := rfl
@[simp] theorem armTransmitter_rxTimeout : (armTransmitter s).rxTimeout = s.rxTimeout := rfl
@[simp] theorem armTransmitter_pktReady : (armTransmitter s).pktReady = s.pktReady := rfl
@[simp] theorem armTransmitter_txState : (armTransmitter s).txState = .idle := rfl
@[simp] theorem armTransmitter_txIdx : (armTransmitter s).txIdx = 0 := rfl
@[simp] theorem armTransmitter_txRem : (armTransmitter s).txRem = s.txLen := rfl
@[simp] theorem armTransmitter_txBusy : (armTransmitter s).txBusy = true := rfl
@[simp] theorem armTransmitter_txIrqEn : (armTransmitter s).txIrqEn = true := rfl
@[simp] theorem armTransmitter_sessionState : (armTransmitter s).sessionState = .waitTx := rfl
@[simp] theorem armTransmitter_crc16Mode : (armTransmitter s).crc16Mode = s.crc16Mode := rfl
@[simp] theorem armTransmitter_txLen : (armTransmitter s).txLen = s.txLen := rfl
@[simp] theorem armTransmitter_lastError : (armTransmitter s).lastError = s.lastError := rfl
@[simp] theorem armTransmitter_crcErrCount : (armTransmitter s).crcErrCount = s.crcErrCount := rfl
@[simp] theorem armTransmitter_timeoutCount : (armTransmitter s).timeoutCount = s.timeoutCount := rfl
@[simp] theorem armTransmitter_fgCont : (armTransmitter s).fgCont = s.fgCont := rfl
@[simp] theorem armTransmitter_i2cPhase : (armTransmitter s).i2cPhase = s.i2cPhase := rfl
@[simp] theorem armTransmitter_i2cReg : (armTransmitter s).i2cReg = s.i2cReg := rfl
@[simp] theorem armTransmitter_i2cDir : (armTransmitter s).i2cDir = s.i2cDir := rfl
@[simp] theorem armTransmitter_i2cBusy : (armTransmitter s).i2cBusy = s.i2cBusy := rfl
@[simp] theorem armTransmitter_i2cErr : (armTransmitter s).i2cErr = s.i2cErr := rfl
@[simp] theorem armTransmitter_irqReason : (armTransmitter s).irqReason = s.irqReason := rfl
@[simp] theorem armTransmitter_irqRaised : (armTransmitter s).irqRaised = s.irqRaised := rfl
@[simp] theorem armTransmitter_irqHoldoff : (armTransmitter s).irqHoldoff = s.irqHoldoff := rfl
@[simp] theorem armTransmitter_irqTimer : (armTransmitter s).irqTimer = s.irqTimer := rfl
@[simp] theorem armTransmitter_lineDriverEn : (armTransmitter s).lineDriverEn = true := rfl
@[simp] theorem armTransmitter_out0 : (armTransmitter s).out0 = s.out0 := rfl
@[simp] theorem armTransmitter_out1 : (armTransmitter s).out1 = s.out1 := rfl
@[simp] theorem armTransmitter_addrProgEn : (armTransmitter s).addrProgEn = s.addrProgEn := rfl
@[simp] theorem armTransmitter_uartTxEmpty : (armTransmitter s).uartTxEmpty = s.uartTxEmpty := rfl
@[simp] theorem armTransmitter_script : (armTransmitter s).script = s.script := rfl
@[simp] theorem armTransmitter_trace : (armTransmitter s).trace = s.trace := rfl
end Armtransmitter

section Accept
variable (s : State) (i : Input) (l : List Input)
@[simp] theorem State.accept_cfg : (s.accept i l).cfg = s.cfg := rfl
@[simp] theorem State.accept_pkt : (s.accept i l).pkt = s.pkt := rfl
@[simp] theorem State.accept_store : (s.accept i l).store = s.store := rfl
@[simp] theorem State.accept_crc8Reg : (s.accept i l).crc8Reg = s.crc8Reg := rfl
@[simp] theorem State.accept_crc16Reg : (s.accept i l).crc16Reg = s.crc16Reg := rfl
@[simp] theorem State.accept_i2cVal : (s.accept i l).i2cVal = s.i2cVal := rfl
@[simp] theorem State.accept_nodeAddr : (s.accept i l).nodeAddr = s.nodeAddr := rfl
@[simp] theorem State.accept_cfgVrating : (s.accept i l).cfgVrating = s.cfgVrating := rfl
@[simp] theorem State.accept_cfgIrating : (s.accept i l).cfgIrating = s.cfgIrating := rfl
@[simp] theorem State.accept_cfgCal : (s.accept i l).cfgCal = s.cfgCal := rfl
@[simp] theorem State.accept_rxState : (s.accept i l).rxState = s.rxState := rfl
@[simp] theorem State.accept_rxEsc : (s.accept i l).rxEsc = s.rxEsc := rfl
@[simp] theorem State.accept_rxIdx : (s.accept i l).rxIdx = s.rxIdx := rfl
@[simp] theorem State.accept_rxTimeout : (s.accept i l).rxTimeout = s.rxTimeout := rfl
@[simp] theorem State.accept_pktReady : (s.accept i l).pktReady = s.pktReady := rfl
@[simp] theorem State.accept_txState : (s.accept i l).txState = s.txState := rfl
@[simp] theorem State.accept_txIdx : (s.accept i l).txIdx = s.txIdx := rfl
@[simp] theorem State.accept_txRem : (s.accept i l).txRem = s.txRem := rfl
@[simp] theorem State.accept_txBusy : (s.accept i l).txBusy = s.txBusy := rfl
@[simp] theorem State.accept_txIrqEn : (s.accept i l).txIrqEn = s.txIrqEn := rfl
@[simp] theorem State.accept_sessionState : (s.accept i l).sessionState = s.sessionState := rfl
@[simp] theorem State.accept_crc16Mode : (s.accept i l).crc16Mode = s.crc16Mode := rfl
@[simp] theorem State.accept_txLen : (s.accept i l).txLen = s.txLen := rfl
@[simp] theorem State.accept_lastError : (s.accept i l).lastError = s.lastError := rfl
@[simp] theorem State.accept_crcErrCount : (s.accept i l).crcErrCount = s.crcErrCount := rfl
@[simp] theorem State.accept_timeoutCount : (s.accept i l).timeoutCount = s.timeoutCount := rfl
@[simp] theorem State.accept_fgCont : (s.accept i l).fgCont = s.fgCont := rfl
@[simp] theorem State.accept_i2cPhase : (s.accept i l).i2cPhase = s.i2cPhase := rfl
@[simp] theorem State.accept_i2cReg : (s.accept i l).i2cReg = s.i2cReg := rfl
@[simp] theorem State.accept_i2cDir : (s.accept i l).i2cDir = s.i2cDir := rfl
@[simp] theorem State.accept_i2cBusy : (s.accept i l).i2cBusy = s.i2cBusy := rfl
@[simp] theorem State.accept_i2cErr : (s.accept i l).i2cErr = s.i2cErr := rfl
@[simp] theorem State.accept_irqReason : (s.accept i l).irqReason = s.irqReason := rfl
@[simp] theorem State.accept_irqRaised : (s.accept i l).irqRaised = s.irqRaised := rfl
@[simp] theorem State.accept_irqHoldoff : (s.accept i l).irqHoldoff = s.irqHoldoff := rfl
@[simp] theorem State.accept_irqTimer : (s.accept i l).irqTimer = s.irqTimer := rfl
@[simp] theorem State.accept_lineDriverEn : (s.accept i l).lineDriverEn = s.lineDriverEn := rfl
@[simp] theorem State.accept_out0 : (s.accept i l).out0 = s.out0 := rfl
@[simp] theorem State.accept_out1 : (s.accept i l).out1 = s.out1 := rfl
@[simp] theorem State.accept_addrProgEn : (s.accept i l).addrProgEn = i.addrProgEn := rfl
@[simp] theorem State.accept_uartTxEmpty : (s.accept i l).uartTxEmpty = i.uartTxEmpty := rfl
@[simp] theorem State.accept_script : (s.accept i l).script = l := rfl
@[simp] theorem State.accept_trace : (s.accept i l).trace = s.trace := rfl
end Accept

end Sys2Proof.Machine
end

