-- ==== Sys2Proof/Laws/Ops.lean ====
section
/-! SUPPORT. One lemma per shared operation that says once everything it can do: when it answers a next state, and
which. -/

namespace Sys2Proof.Machine

section Access
variable {s t : State} {i n : Nat} {vs : Bytes}

theorem onlyIf_next {m : String} {p : Prop} [Decidable p] {r : Result} :
    onlyIf m p r = .next t ↔ p ∧ r = .next t := by
  by_cases h : p <;> simp [onlyIf, h]

theorem readPkt_next {k : Byte → Result} :
    readPkt s i k = .next t ↔ i < s.cfg.cap ∧ k (s.pktByte i) = .next t := by
  by_cases h : i < s.cfg.cap <;> simp [readPkt, h]

theorem writePkt_next {k : State → Result} :
    writePkt s i vs k = .next t ↔
      i + vs.length ≤ s.cfg.cap ∧ k { s with pkt := s.pkt.writeAll .pkt i vs } = .next t := by
  by_cases h : i + vs.length ≤ s.cfg.cap <;> simp [writePkt, h]

theorem readSlice_next {k : Bytes → Result} :
    readSlice s n k = .next t ↔ n ≤ s.cfg.cap ∧ k (s.pktBytes n) = .next t := by
  by_cases h : n ≤ s.cfg.cap <;> simp [readSlice, h]

theorem readParam_next {k : Byte → Result} :
    readParam s i k = .next t ↔ 3 + i < s.cfg.cap ∧ k (s.pktByte (3 + i)) = .next t :=
  readPkt_next

theorem writeParams_next {k : State → Result} :
    writeParams s i vs k = .next t ↔
      3 + i + vs.length ≤ s.cfg.cap ∧ k { s with pkt := s.pkt.writeAll .pkt (3 + i) vs } = .next t :=
  writePkt_next

/-- A byte of the buffer after a write of several: those written, and every other as before. -/
theorem pktByte_writeAll_outside {x : Nat} (h : x < i ∨ i + vs.length ≤ x) :
    State.pktByte { s with pkt := s.pkt.writeAll .pkt i vs } x = s.pktByte x :=
  Memory.read_writeAll_outside .pkt vs s.pkt i x h

/-- A byte of the buffer after a write of several, one of those written. -/
theorem pktByte_writeAll_inside {x : Nat} (h : x < vs.length) :
    State.pktByte { s with pkt := s.pkt.writeAll .pkt i vs } (i + x) = vs[x] :=
  Memory.read_writeAll_inside .pkt vs s.pkt i x h

end Access

section Commands
variable {s t : State}

theorem withParams_next {n : Nat} {r : Result} :
    withParams n s r = .next t ↔
      (s.paramLen = n ∧ r = .next t)
      ∨ (s.paramLen ≠ n ∧ t = finishCommand s.cfg.errBadParam s) := by
  by_cases h : s.paramLen = n <;> simp [withParams, badParam, h, eq_comm]

theorem addressArms_next {inMode : Byte → Result} {onBroadcast onUnicast : Result} :
    addressArms s inMode onBroadcast onUnicast = .next t ↔
      1 < s.cfg.cap ∧
        ((s.addrProgEn = true ∧ inMode (s.pktByte 1) = .next t)
        ∨ (s.addrProgEn = false ∧ s.pktByte 1 = broadcast ∧ onBroadcast = .next t)
        ∨ (s.addrProgEn = false ∧ s.pktByte 1 ≠ broadcast ∧ s.pktByte 1 = s.nodeAddr
            ∧ onUnicast = .next t)
        ∨ (s.addrProgEn = false ∧ s.pktByte 1 ≠ broadcast ∧ s.pktByte 1 ≠ s.nodeAddr
            ∧ t = abandon s)) := by
  unfold addressArms
  rw [readPkt_next]
  cases s.addrProgEn <;> by_cases hb : s.pktByte 1 = broadcast <;>
    by_cases hn : s.pktByte 1 = s.nodeAddr <;> simp_all [eq_comm]

theorem beginTransaction_next {d : Dir} {r : Byte} {v : Half} {k : State → Result} :
    beginTransaction d r v s k = .next t ↔ s.i2cBusy = false ∧ k (i2cStart d r v s) = .next t := by
  cases h : s.i2cBusy <;> simp [beginTransaction, h]

theorem hold_next : hold s = .next t ↔ t = { s with fgCont := .fgI2cWait } := by
  simp [hold, eq_comm]

theorem telemetryBegin_next {r : Byte} :
    telemetryBegin r s = .next t ↔
      (s.paramLen = 8 ∧ s.i2cBusy = false ∧ t = { i2cStart .read r 0 s with fgCont := .fgI2cWait })
      ∨ (s.paramLen ≠ 8 ∧ t = finishCommand s.cfg.errBadParam s) := by
  simp [telemetryBegin, withParams_next, beginTransaction_next, hold_next]

theorem telemetryFinish_next {k : Quantity} :
    telemetryFinish k s = .next t ↔
      10 ≤ s.cfg.cap ∧ t = finishCommand s.cfg.errNone { s with
        pkt := s.pkt.writeAll .pkt 3
          ([telExp s.cfg k, loByte s.i2cVal, hiByte s.i2cVal]
            ++ bytes32 (telScale s.cfg k s.cfgVrating s.cfgIrating)) } := by
  rw [telemetryFinish, writeParams_next]
  simp [commandOk, bytes32, eq_comm]

/-- Writing an output channel in one record: the level, and its output action. -/
theorem setOut_eq (ch : Byte) (v : Bool) (s : State) :
    setOut ch v s = { s with
      out0 := if ch = 0 then v else s.out0
      out1 := if ch = 0 then s.out1 else v
      trace := s.trace ++ [.outPin ch v] } := rfl

theorem outputWrite_next {v : Bool} :
    outputWrite v s = .next t ↔
      5 < s.cfg.cap ∧
        t = if s.pktByte 3 > 1 ∨ s.pktByte 5 ≠ 0 then finishCommand s.cfg.errBadParam s
          else finishCommand s.cfg.errNone (setOut (s.pktByte 3) v s) := by
  have hc : (setOut (s.pktByte 3) v s).cfg = s.cfg := rfl
  have h5 : (3 < s.cfg.cap ∧ 5 < s.cfg.cap) ↔ 5 < s.cfg.cap := by omega
  rw [outputWrite, readParam_next, readParam_next, ← and_assoc, h5]
  by_cases h : s.pktByte 3 > 1 ∨ s.pktByte 5 ≠ 0
  · rw [if_pos h, if_pos h]; simp [badParam, eq_comm]
  · rw [if_neg h, if_neg h]; simp [commandOk, hc, eq_comm]

theorem sendNotification_next :
    sendNotification s = .next t ↔
      3 ≤ s.cfg.cap ∧
        t = { reseedHoldoff { s with
                pkt := s.pkt.writeAll .pkt 0 [s.cfg.hdrIrq16, s.nodeAddr, s.cfg.notifyCmd]
                txLen := 5
                crc16Mode := true } with
              sessionState := .txStart } := by
  rw [sendNotification, writePkt_next]
  simp [eq_comm]

theorem respondWith_next {h : Byte} :
    respondWith h s = .next t ↔
      1 ≤ s.cfg.cap ∧ t = { s with
        pkt := s.pkt.writeAll .pkt 0 [h]
        txLen := s.rxIdx
        sessionState := .txStart } := by
  rw [respondWith, writePkt_next]
  simp [eq_comm]

end Commands

/-! ## What the configuration and the packet buffer of an append are -/

theorem append_cfg (b : Byte) (s : State) : (append b s).cfg = s.cfg := by
  unfold append; split <;> split <;> rfl

/-- `Append(b)` in one record: a byte stored below CAP, the index counting to CAP + 1. -/
theorem append_eq (b : Byte) (s : State) :
    append b s = { s with
      pkt := if s.rxIdx < s.cfg.cap then s.pkt.write .pkt s.rxIdx b else s.pkt
      rxIdx := if s.rxIdx ≤ s.cfg.cap then s.rxIdx + 1 else s.rxIdx } := by
  unfold append
  by_cases h : s.rxIdx < s.cfg.cap
  · simp [h, Nat.le_of_lt h, State.putPkt]
  · by_cases h' : s.rxIdx ≤ s.cfg.cap <;> simp [h, h']

theorem persistRatings_eq (v : Byte) (i : Half) (s : State) :
    persistRatings v i s = { s with
      store := s.store.writeAll .store s.cfg.cfgOffset
        [loByte s.cfg.cfgSignature, hiByte s.cfg.cfgSignature, v, 0, loByte i, hiByte i]
      trace := s.trace ++
        [.storeWrite s.cfg.cfgOffset (loByte s.cfg.cfgSignature),
         .storeWrite (s.cfg.cfgOffset + 1) (hiByte s.cfg.cfgSignature),
         .storeWrite (s.cfg.cfgOffset + 2) v,
         .storeWrite (s.cfg.cfgOffset + 3) 0,
         .storeWrite (s.cfg.cfgOffset + 4) (loByte i),
         .storeWrite (s.cfg.cfgOffset + 5) (hiByte i)] } := by
  simp [persistRatings, storeWrite, emit, Memory.writeAll, Nat.add_assoc]

end Sys2Proof.Machine
end

