-- ==== Sys2Proof/Laws/Rows.lean ====
section
/-! SUPPORT. Lemmas about rows that several statements need: byte order, command codes, frames for this node, runs of
instructions and coded words. -/

namespace Sys2Proof

theorem pair_hiByte_loByte (v : Half) : pair (hiByte v) (loByte v) = v := by
  apply BitVec.eq_of_toNat_eq
  have h := v.isLt
  simp only [pair, hiByte, loByte, BitVec.toNat_append, BitVec.extractLsb'_toNat, Nat.shiftRight_zero]
  rw [Nat.shiftLeft_eq, Nat.mul_comm, ← Nat.two_pow_add_eq_or_of_lt (Nat.mod_lt _ (by decide)),
    Nat.shiftRight_eq_div_pow]
  omega

set_option maxRecDepth 20000 in
theorem addrByteFields_addrByte (a : BitVec 7) (r : Dir) : addrByteFields (addrByte a r) = (a, r) := by
  revert a; cases r <;> decide

end Sys2Proof

namespace Sys2Proof.Machine

/-! ## Command codes, distinct by 00_scope.md R7 (d) -/

theorem commandOf_cmdNop (c : Cfg) : commandOf c c.cmdNop = .noOp := by simp [commandOf]

section Codes
variable {c : Cfg} (h : c.commands.Nodup)
include h

theorem commandOf_cmdGetNodeId : commandOf c c.cmdGetNodeId = .getNodeId := by
  simp only [Cfg.commands, List.nodup_cons, List.mem_cons, not_or] at h
  simp [commandOf, Ne.symm h.1.1]

theorem commandOf_cmdGetCommStatus : commandOf c c.cmdGetCommStatus = .getCommStatus := by
  simp only [Cfg.commands, List.nodup_cons, List.mem_cons, not_or] at h
  simp [commandOf, Ne.symm h.1.2.1, Ne.symm h.2.1.1]

theorem commandOf_cmdGetIrqPoll : commandOf c c.cmdGetIrqPoll = .getIrqPoll := by
  simp only [Cfg.commands, List.nodup_cons, List.mem_cons, not_or] at h
  simp [commandOf, Ne.symm h.1.2.2.1, Ne.symm h.2.1.2.1, Ne.symm h.2.2.1.1]

theorem commandOf_cmdOutput : commandOf c c.cmdOutput = .output := by
  simp only [Cfg.commands, List.nodup_cons, List.mem_cons, not_or] at h
  obtain ⟨⟨_, _, _, h1, _⟩, ⟨_, _, h2, _⟩, ⟨_, h3, _⟩, ⟨h4, _⟩, _⟩ := h
  simp [commandOf, Ne.symm h1, Ne.symm h2, Ne.symm h3, Ne.symm h4]

theorem commandOf_cmdGetVolts : commandOf c c.cmdGetVolts = .getVolts := by
  simp only [Cfg.commands, List.nodup_cons, List.mem_cons, not_or] at h
  obtain ⟨⟨_, _, _, _, h1, _⟩, ⟨_, _, _, h2, _⟩, ⟨_, _, h3, _⟩, ⟨_, h4, _⟩, ⟨h5, _⟩, _⟩ := h
  simp [commandOf, Ne.symm h1, Ne.symm h2, Ne.symm h3, Ne.symm h4, Ne.symm h5]

theorem commandOf_cmdGetCurrent : commandOf c c.cmdGetCurrent = .getCurrent := by
  simp only [Cfg.commands, List.nodup_cons, List.mem_cons, not_or] at h
  obtain ⟨⟨_, _, _, _, _, h1, _⟩, ⟨_, _, _, _, h2, _⟩, ⟨_, _, _, h3, _⟩, ⟨_, _, h4, _⟩, ⟨_, h5, _⟩,
    ⟨h6, _⟩, _⟩ := h
  simp [commandOf, Ne.symm h1, Ne.symm h2, Ne.symm h3, Ne.symm h4, Ne.symm h5, Ne.symm h6]

theorem commandOf_cmdGetPower : commandOf c c.cmdGetPower = .getPower := by
  simp only [Cfg.commands, List.nodup_cons, List.mem_cons, not_or] at h
  obtain ⟨⟨_, _, _, _, _, _, h1, _⟩, ⟨_, _, _, _, _, h2, _⟩, ⟨_, _, _, _, h3, _⟩, ⟨_, _, _, h4, _⟩,
    ⟨_, _, h5, _⟩, ⟨_, h6, _⟩, ⟨h7, _⟩, _⟩ := h
  simp [commandOf, Ne.symm h1, Ne.symm h2, Ne.symm h3, Ne.symm h4, Ne.symm h5, Ne.symm h6, Ne.symm h7]

theorem commandOf_cmdShuntConfig : commandOf c c.cmdShuntConfig = .shuntConfig := by
  simp only [Cfg.commands, List.nodup_cons, List.mem_cons, not_or] at h
  obtain ⟨⟨_, _, _, _, _, _, _, h1, _⟩, ⟨_, _, _, _, _, _, h2, _⟩, ⟨_, _, _, _, _, h3, _⟩,
    ⟨_, _, _, _, h4, _⟩, ⟨_, _, _, h5, _⟩, ⟨_, _, h6, _⟩, ⟨_, h7, _⟩, ⟨h8, _⟩, _⟩ := h
  simp [commandOf, Ne.symm h1, Ne.symm h2, Ne.symm h3, Ne.symm h4, Ne.symm h5, Ne.symm h6, Ne.symm h7,
    Ne.symm h8]

theorem commandOf_cmdProgramAddress : commandOf c c.cmdProgramAddress = .programAddress := by
  simp only [Cfg.commands, List.nodup_cons, List.mem_cons, not_or] at h
  obtain ⟨⟨_, _, _, _, _, _, _, _, h1, _⟩, ⟨_, _, _, _, _, _, _, h2, _⟩, ⟨_, _, _, _, _, _, h3, _⟩,
    ⟨_, _, _, _, _, h4, _⟩, ⟨_, _, _, _, h5, _⟩, ⟨_, _, _, h6, _⟩, ⟨_, _, h7, _⟩, ⟨_, h8, _⟩,
    ⟨h9, _⟩, _⟩ := h
  simp [commandOf, Ne.symm h1, Ne.symm h2, Ne.symm h3, Ne.symm h4, Ne.symm h5, Ne.symm h6, Ne.symm h7,
    Ne.symm h8, Ne.symm h9]

theorem commandOf_cmdEnumRequest : commandOf c c.cmdEnumRequest = .enumRequest := by
  simp only [Cfg.commands, List.nodup_cons, List.mem_cons, not_or] at h
  obtain ⟨⟨_, _, _, _, _, _, _, _, _, h1, _⟩, ⟨_, _, _, _, _, _, _, _, h2, _⟩,
    ⟨_, _, _, _, _, _, _, h3, _⟩, ⟨_, _, _, _, _, _, h4, _⟩, ⟨_, _, _, _, _, h5, _⟩,
    ⟨_, _, _, _, h6, _⟩, ⟨_, _, _, h7, _⟩, ⟨_, _, h8, _⟩, ⟨_, h9, _⟩, ⟨h10, _⟩, _⟩ := h
  simp [commandOf, Ne.symm h1, Ne.symm h2, Ne.symm h3, Ne.symm h4, Ne.symm h5, Ne.symm h6, Ne.symm h7,
    Ne.symm h8, Ne.symm h9, Ne.symm h10]

end Codes

theorem eq_cmdEnumRequest {c : Cfg} {x : Byte} (h : commandOf c x = .enumRequest) :
    x = c.cmdEnumRequest := by
  unfold commandOf at h
  by_contra hne
  simp only [hne, if_false] at h
  repeat' split at h
  all_goals exact absurd h (by decide)

theorem eq_cmdProgramAddress {c : Cfg} {x : Byte} (h : commandOf c x = .programAddress) :
    x = c.cmdProgramAddress := by
  unfold commandOf at h
  by_contra hne
  simp only [hne, if_false] at h
  repeat' split at h
  all_goals exact absurd h (by decide)

/-! ## Frames for this node -/

theorem legal_five_le_cap {c : Cfg} (h : c.Legal) : 5 ≤ c.cap := h.2.2.2.2.1.1

section Frames
variable {s : State} {x : Byte}

/-- The parameter region ends inside the buffer. -/
theorem ownCommand_paramLen_le (h : s.ownCommand x) (h1 : 1 ≤ s.paramLen) :
    4 + s.paramLen ≤ s.cfg.cap := by
  have hr := h.1.2.2.1
  unfold State.paramLen State.overhead at *
  cases hm : s.crc16Mode <;> simp [hm, ovh8, ovh16] at * <;> omega

/-- A command row dispatches a frame for this node to its handler. -/
theorem unicastCommand_own (h : s.ownCommand x) {m : String} {k : Command}
    (hk : commandOf s.cfg x = k) (f : State → Result) : unicastCommand m k f s = f s := by
  obtain ⟨⟨hl, hp, _, hx⟩, hm, hb, ha⟩ := h
  have hc := legal_five_le_cap hl
  simp [unicastCommand, onCommand, onlyIf, hp, readPkt, show 2 < s.cfg.cap by omega,
    show 1 < s.cfg.cap by omega, hx, hk, addressArms, hm, ha, hb]

/-- The event, the session state and the address class dispatch a frame for this node. -/
theorem decode_own (h : s.ownCommand x) :
    exec .poll s = dispatch x s ∧ exec .pollSDecode s = dispatch x s
      ∧ exec (.addrUnicast s.nodeAddr) s = dispatch x s := by
  obtain ⟨⟨hl, ⟨hf, hs⟩, _, hx⟩, hm, hb, ha⟩ := h
  have hc := legal_five_le_cap hl
  simp [exec, execPoll, execPollSDecode, execAddrUnicast, onlyIf, State.polls, hf, hs, readPkt,
    show 2 < s.cfg.cap by omega, show 1 < s.cfg.cap by omega, hx, hm, ha, hb]

/-- A sub-command row dispatches a frame for this node to its part of the handler. -/
theorem onSubCommand_own (h : s.ownCommand x) {m : String} {k : Command} {n i : Nat}
    (hk : commandOf s.cfg x = k) (hn : s.paramLen = n) (hi : 3 + i < s.cfg.cap)
    {sel : Byte → Prop} [DecidablePred sel] (hsel : sel (s.pktByte (3 + i))) (r : Result) :
    onSubCommand m k n i sel s r = r := by
  obtain ⟨⟨hl, hp, _, hx⟩, hm, hb, ha⟩ := h
  have hc := legal_five_le_cap hl
  simp [onSubCommand, onCommand, onlyIf, hp, readPkt, readParam, show 2 < s.cfg.cap by omega,
    show 1 < s.cfg.cap by omega, hx, hk, hm, ha, hb, hn, hi, hsel]

end Frames

/-! ## Runs -/

@[simp] theorem execAll_nil (s : State) : execAll [] s = .next s := rfl

theorem execAll_cons_next {i : Instr} {is : List Instr} {s t : State} (h : exec i s = .next t) :
    execAll (i :: is) s = execAll is t := by
  simp [execAll, h]

theorem execAll_append {is js : List Instr} {s t : State} (h : execAll is s = .next t) :
    execAll (is ++ js) s = execAll js t := by
  induction is generalizing s with
  | nil => cases h; rfl
  | cons i is ih =>
    cases hi : exec i s with
    | next u =>
      rw [execAll_cons_next hi] at h
      rw [List.cons_append, execAll_cons_next hi, ih h]
    | fault f => simp [execAll, hi] at h
    | refused r => simp [execAll, hi] at h

/-- One coded word that decodes runs its instruction. -/
theorem runWords_one {s : State} {w : Bytes} {i : Instr} (h : decode s.cfg w = .instr i []) :
    runWords [w] s = exec i s := by
  simp only [runWords, h]
  cases exec i s <;> rfl

end Sys2Proof.Machine
end

