-- ==== Sys2Proof/Laws/Traces.lean ====
section
/-! SUPPORT. What one more output action adds to each of the three traces of 00_scope.md R12. -/

namespace Sys2Proof.Machine

section Emit
variable (o : Output) (s : State)

@[simp] theorem wireTrace_emit : (emit o s).wireTrace = s.wireTrace ++ o.onWire.toList := by
  cases h : o.onWire <;> simp [State.wireTrace, emit, h]

@[simp] theorem busTrace_emit : (emit o s).busTrace = s.busTrace ++ o.onBus.toList := by
  cases h : o.onBus <;> simp [State.busTrace, emit, h]

@[simp] theorem storeTrace_emit : (emit o s).storeTrace = s.storeTrace ++ o.onStore.toList := by
  cases h : o.onStore <;> simp [State.storeTrace, emit, h]

end Emit

end Sys2Proof.Machine
end

