-- ==== Sys2Proof/Tests/Slice0.lean ====
section
/-! SUPPORT. The model's own tests: ill-formed terms, words written out from 30_encoding.md, one-step vectors of
95_test_vectors.md and of the rules' examples, and for each statement with hypotheses a state that meets them. -/

open Sys2Proof Sys2Proof.Machine

namespace Sys2Proof.Tests

set_option maxRecDepth 16000

/-! ## Ill-formed terms are refused -/

theorem test_wf_rxIgnore : Instr.wellFormed T0 (.rxIgnore 0x02) = false := by decide
theorem test_wf_rxData : Instr.wellFormed T0 (.rxData 0x1A) = false := by decide
theorem test_wf_txData : Instr.wellFormed { T0 with esc := 0xFF } .txData = false := by decide
theorem test_wf_hdrOther : Instr.wellFormed T0 (.hdrOther 0x84) = false := by decide
theorem test_wf_addrUnicast : Instr.wellFormed T0 (.addrUnicast 0xFF) = false := by decide
theorem test_wf_cmdUnknown : Instr.wellFormed T0 (.cmdUnknown 0x0A) = false := by decide
theorem test_wf_i2cIllegal : Instr.wellFormed T0 (.i2cIllegal 8 0) = false := by decide
theorem test_wf_i2cAddrByte : Instr.wellFormed T0 (.i2cAddrByte 0x41 .read) = false := by decide
theorem test_wf_crc8 : Instr.wellFormed T0 (.crc8 (List.replicate 256 0)) = false := by decide
theorem test_wf_crc16 : Instr.wellFormed T0 (.crc16 0 (List.replicate 256 0)) = false := by decide
theorem test_wf_raise : Instr.wellFormed T0 (.raise 0x00) = false := by decide
theorem test_wf_programAddress : Instr.wellFormed T0 (.programAddress 0xFF) = false := by decide

/-! ## Every constructor's word, from 30_encoding.md under T0 (spaces and operation numbers: log entry 12) -/

/-- The word decodes to the instruction, with nothing left. -/
abbrev codes (w : Bytes) (i : Instr) : Prop := decode T0 w = .instr i []

theorem test_decode_wire_rx :
    codes [1, 1, 2, 0, 0x02] (.rxDrop 0x02)
    ∧ codes [1, 0, 1, 1, 0x03] (.rxEscaped 0x03)
    ∧ codes [1, 0, 0, 0, 0x02] .rxStart
    ∧ codes [1, 0, 2, 0, 0x03] (.rxIgnore 0x03)
    ∧ codes [1, 0, 1, 0, 0x03] .rxEnd
    ∧ codes [1, 0, 1, 0, 0x1A] .rxEsc
    ∧ codes [1, 0, 1, 0, 0x81] (.rxData 0x81)
    ∧ codes [1, 0, 3, 1, 0x55] (.rxIgnore 0x55) := by decide

theorem test_decode_wire_tx :
    codes [2, 0, 0] .txStartMark
    ∧ codes [2, 2, 0x1B] .txData
    ∧ codes [2, 2, 0x1A] .txEsc
    ∧ codes [2, 1, 0] .txEscaped
    ∧ codes [2, 3, 0] .txEndMark := by decide

theorem test_decode_control_byte :
    codes [3, 0x81] .req8
    ∧ codes [3, 0x82] .req16
    ∧ codes [3, 0x83] .ack8
    ∧ codes [3, 0x84] .nak8
    ∧ codes [3, 0x85] .ack16
    ∧ codes [3, 0x86] .nak16
    ∧ codes [3, 0x87] .irq16
    ∧ codes [3, 0x80] (.hdrOther 0x80) := by decide

theorem test_decode_address_byte :
    codes [4, 0xFF] .addrBroadcast
    ∧ codes [4, 0xFE] (.addrUnicast 0xFE) := by decide

theorem test_decode_command :
    codes [5, 0x00] .noOp
    ∧ codes [5, 0x01] .getNodeId
    ∧ codes [5, 0x02] .getCommStatus
    ∧ codes [5, 0x03] .getIrqPoll
    ∧ codes [5, 0x04] .getSetOutput
    ∧ codes [5, 0x05] .getVolts
    ∧ codes [5, 0x06] .getCurrent
    ∧ codes [5, 0x07] .getPower
    ∧ codes [5, 0x08] .getSetShuntConfig
    ∧ codes [5, 0x09] .cmdProgramAddress
    ∧ codes [5, 0x0A] .enumerationRequest
    ∧ codes [5, 0x7F] (.cmdUnknown 0x7F)
    ∧ codes [6, 0x0B] .notify := by decide

theorem test_decode_sub_command :
    codes [7, 0] .outputClear
    ∧ codes [7, 1] .outputSet
    ∧ codes [7, 2] .outputRead
    ∧ codes [8, 0] .shuntReadConfig
    ∧ codes [8, 1] .shuntWriteConfig
    ∧ codes [8, 2] .shuntReadCal := by decide

theorem test_decode_session_state :
    codes [9, 0, 0] .pollSStart
    ∧ codes [9, 0, 1] .pollSPacketReady
    ∧ codes [9, 0, 2] .pollSDecode
    ∧ codes [9, 0, 3] .pollSRespond
    ∧ codes [9, 0, 4] .pollSTxStart
    ∧ codes [9, 0, 5] .pollSWaitTx
    ∧ codes [9, 0, 6] .pollSWaitDrain
    ∧ codes [9, 0, 7] .pollSFinish
    ∧ codes [9, 1, 2] .pollFgI2cWait := by decide

theorem test_decode_i2c_phase :
    codes [10, 0, 0x12] (.i2cPh0 0x12)
    ∧ codes [10, 1, 0x12] (.i2cPh1 0x12)
    ∧ codes [10, 2, 0x12] (.i2cPh2 0x12)
    ∧ codes [10, 3, 0x12] (.i2cPh3 0x12)
    ∧ codes [10, 4, 0x12] (.i2cPh4 0x12)
    ∧ codes [10, 5, 0x12] (.i2cPh5 0x12)
    ∧ codes [10, 6, 0x12] (.i2cPh6 0x12)
    ∧ codes [10, 7, 0x12] (.i2cPh7 0x12)
    ∧ codes [10, 8, 0x12] (.i2cPh8 0x12)
    ∧ codes [10, 9, 0] (.i2cIllegal 9 0)
    ∧ codes [10, 15, 0] (.i2cIllegal 15 0)
    ∧ codes [11, 0x80] (.i2cAddrByte 0x40 .write)
    ∧ codes [11, 0x81] (.i2cAddrByte 0x40 .read) := by decide

theorem test_decode_operation :
    codes [12, 0, 0x81] (.rxByte 0x81)
    ∧ codes [12, 1] .txReady
    ∧ codes [12, 2] .tickRx
    ∧ codes [12, 3] .tickArb
    ∧ codes [12, 4, 0x34] (.i2cEvent 0x34)
    ∧ codes [12, 5] .poll
    ∧ codes [12, 6, 2, 0x81, 0x05] (.crc8 [0x81, 0x05])
    ∧ codes [12, 7, 0xCF, 0xAA, 1, 0x11] (.crc16 0xAACF [0x11])
    ∧ codes [12, 8, 1, 0x02, 0x64, 0x32] (.i2cBegin .read 0x02 0x3264)
    ∧ codes [12, 9] .reseed
    ∧ codes [12, 10, 2] (.raise 2)
    ∧ codes [12, 11, 0x22] (.programAddress 0x22) := by decide

theorem test_decode_rejects :
    decode T0 [9, 0, 8] = .bad (.badCursor 8) ∧ decode T0 [11, 0x82] = .bad (.foreignDevice 0x82)
    ∧ decode T0 [7, 3] = .bad (.badSubCommand 3) ∧ decode T0 [13] = .bad (.badSpace 13)
    ∧ decode T0 [12, 10, 0] = .bad (.badOperand 0) ∧ decode T0 [12, 7, 0xCF] = .bad .truncated := by decide

/-! ## One step on a small state -/

/-- What an instruction leaves in the fields `f`, if it answers a next state. -/
def leaves {α : Type} (i : Instr) (s : State) (f : State → α) : Option α :=
  match exec i s with
  | .next t => some (f t)
  | .fault _ => none
  | .refused _ => none

/-- A packet in the buffer and the latches of its exchange at a session state, after reset. -/
def exchange (packet : Bytes) (st : SessionState) : State :=
  { State.reset with
    pkt := Memory.writeAll .pkt [] 0 packet
    rxState := .finishing
    rxIdx := packet.length
    pktReady := true
    crc16Mode := decide (packet.head? = some 0x82)
    sessionState := st }

/-- The receiver assembling, after `n` bytes. -/
def assembling (n : Nat) : State := { State.reset with rxState := .assembling, rxTimeout := 4, rxIdx := n }

/-- The transmitter armed with a packet, in a state and at an index. -/
def sending (packet : Bytes) (st : TxState) (n : Nat) : State :=
  { State.reset with
    pkt := Memory.writeAll .pkt [] 0 packet
    sessionState := .waitTx
    lineDriverEn := true
    txIrqEn := true
    txBusy := true
    txState := st
    txLen := packet.length
    txIdx := n
    txRem := packet.length - n }

/-- A bus transaction in flight: direction, register 02 or 05, value 3264, phase. -/
def transaction (dir : Dir) (p : BitVec 4) : State :=
  { exchange [0x81, 0x05, 0x05, 0, 0, 0, 0, 0, 0, 0, 0, 0x68] .decode with
    fgCont := .fgI2cWait
    i2cBusy := true
    i2cDir := dir
    i2cReg := match dir with
      | .read => 0x02
      | .write => 0x05
    i2cVal := 0x3264
    i2cPhase := p }

/-- A notification that is due: 95_test_vectors.md 2.6. -/
def due : State := { State.reset with irqTimer := 0 }

/-- R151. -/
theorem test_rxDrop :
    leaves (.rxDrop 0x02) (exchange [0x81] .start) (fun t => (t.rxState, t.pktReady)) = some (.finishing, true) := by decide

/-- R155, example. -/
theorem test_rxEscaped :
    leaves (.rxEscaped 0x03) { assembling 1 with rxEsc := true } (fun t => (t.pktByte 1, t.rxIdx, t.rxEsc, t.pktReady)) = some (0x03, 2, false, false) := by decide

/-- R152, example; the stale escape flag of R329. -/
theorem test_rxStart :
    leaves .rxStart { State.reset with rxEsc := true } (fun t => (t.rxState, t.rxIdx, t.rxTimeout, t.rxEsc)) = some (.assembling, 0, 4, false) := by decide

/-- 95 2.2 (f). -/
theorem test_rxIgnore :
    leaves (.rxIgnore 0x1A) State.reset (fun t => (t.rxEsc, t.rxState)) = some (false, .idle) := by decide

/-- R154, example. -/
theorem test_rxEnd :
    leaves .rxEnd (assembling 4) (fun t => (t.rxState, t.pktReady, t.rxIdx)) = some (.finishing, true, 4) := by decide

/-- R156. -/
theorem test_rxEsc :
    leaves .rxEsc (assembling 2) (fun t => (t.rxEsc, t.rxIdx)) = some (true, 2) := by decide

/-- R157, example. -/
theorem test_rxData :
    leaves (.rxData 0x81) (assembling 0) (fun t => (t.pktByte 0, t.rxIdx)) = some (0x81, 1) := by decide

/-- R158, example. -/
theorem test_rxData_overflow :
    leaves (.rxData 0x4C) (assembling 16) (fun t => (t.pkt, t.rxIdx)) = some ([], 17) := by decide

/-- R158, example. -/
theorem test_rxByte_saturates :
    leaves (.rxByte 0x4D) (assembling 17) (fun t => (t.pkt, t.rxIdx)) = some ([], 17) := by decide

/-- 95 2.2 (i). -/
theorem test_tickRx_expires :
    leaves .tickRx { assembling 1 with rxTimeout := 1, rxEsc := true } (fun t => (t.rxState, t.rxTimeout, t.timeoutCount, t.rxEsc)) = some (.idle, 0, 1, true) := by decide

/-- 95 2.2 (i). -/
theorem test_tickRx_counts :
    leaves .tickRx (assembling 1) (fun t => (t.rxState, t.rxTimeout, t.timeoutCount)) = some (.assembling, 3, 0) := by decide

/-- R245, example. -/
theorem test_tickArb :
    leaves .tickArb State.reset (fun t => t.irqTimer) = some 4 := by decide

/-- R245, example. -/
theorem test_tickArb_zero :
    leaves .tickArb due (fun t => t.irqTimer) = some 0 := by decide

/-- 95 2.3 (b), event 1. -/
theorem test_txStartMark :
    leaves .txStartMark (sending [0x87, 0x05, 0x0B, 0x54, 0xF0] .idle 0) (fun t => (t.wireTrace, t.txState)) = some ([0x02], .sending) := by decide

/-- 95 2.3 (b), event 2. -/
theorem test_txData :
    leaves .txData (sending [0x87, 0x05, 0x0B, 0x54, 0xF0] .sending 0) (fun t => (t.wireTrace, t.txState, t.txIdx, t.txRem)) = some ([0x87], .sending, 1, 4) := by decide

/-- 95 2.3 (b), event 8. -/
theorem test_txData_last :
    leaves .txReady (sending [0x87, 0x05, 0x0B, 0x54, 0xF0] .sending 4) (fun t => (t.wireTrace, t.txState, t.txIdx, t.txRem)) = some ([0xF0], .done, 5, 0) := by decide

/-- 95 2.3 (b), event 3. -/
theorem test_txEsc :
    leaves .txEsc (sending [0x87, 0x05, 0x0B, 0x54, 0xF0] .sending 1) (fun t => (t.wireTrace, t.txState, t.txIdx, t.txRem)) = some ([0x1A], .escWait, 1, 4) := by decide

/-- 95 2.3 (b), event 4. -/
theorem test_txEscaped :
    leaves .txEscaped (sending [0x87, 0x05, 0x0B, 0x54, 0xF0] .escWait 1) (fun t => (t.wireTrace, t.txState, t.txIdx, t.txRem)) = some ([0x05], .sending, 2, 3) := by decide

/-- 95 2.3 (b), event 9. -/
theorem test_txEndMark :
    leaves .txEndMark (sending [0x87, 0x05, 0x0B, 0x54, 0xF0] .done 5) (fun t => (t.wireTrace, t.txState, t.txBusy, t.txIrqEn)) = some ([0x03], .idle, false, false) := by decide

/-- 95 2.3 (e). -/
theorem test_txReady_masked :
    leaves .txReady State.reset (fun t => t.trace) = some [] := by decide

/-- R174, example. -/
theorem test_req8 :
    leaves .req8 (exchange [0x81, 0x05, 0x00, 0x21] .packetReady) (fun t => (t.sessionState, t.crc16Mode, t.crcErrCount)) = some (.decode, false, 0) := by decide

/-- R174, example. -/
theorem test_req8_mismatch :
    leaves .req8 (exchange [0x81, 0x05, 0x00, 0x00] .packetReady) (fun t => (t.sessionState, t.crcErrCount)) = some (.finish, 1) := by decide

/-- 95 2.8 (b). -/
theorem test_req16 :
    leaves .req16 (exchange [0x82, 0x05, 0x02, 0x01, 0x00, 0x00, 0x6F, 0xA6] .packetReady) (fun t => (t.sessionState, t.crc16Mode)) = some (.decode, true) := by decide

/-- 95 2.4 (d). -/
theorem test_req16_short :
    leaves .req16 (exchange [0x82, 0x05, 0x00, 0x00] .packetReady) (fun t => (t.sessionState, t.crcErrCount)) = some (.finish, 0) := by decide

/-- R176, example. -/
theorem test_ack8 :
    leaves .ack8 (exchange [0x81, 0x05, 0x00, 0x21] .respond) (fun t => (t.pktByte 0, t.txLen, t.sessionState)) = some (0x83, 4, .txStart) := by decide

/-- R176. -/
theorem test_nak8 :
    leaves .nak8 { exchange [0x81, 0x05, 0x00, 0x21] .respond with lastError := 2 } (fun t => t.pktByte 0) = some 0x84 := by decide

/-- R176. -/
theorem test_ack16 :
    leaves .ack16 (exchange [0x82, 0x05, 0x00, 0xCF, 0xAA] .respond) (fun t => (t.pktByte 0, t.txLen)) = some (0x85, 5) := by decide

/-- R176. -/
theorem test_nak16 :
    leaves .nak16 { exchange [0x82, 0x05, 0x00, 0xCF, 0xAA] .respond with lastError := 1 } (fun t => t.pktByte 0) = some 0x86 := by decide

/-- 95 2.4 (c). -/
theorem test_irq16_heard :
    leaves .irq16 (exchange [0x87, 0x06, 0x0B, 0, 0] .packetReady) (fun t => (t.sessionState, t.crcErrCount)) = some (.finish, 0) := by decide

/-- 95 2.4 (c). -/
theorem test_hdrOther :
    leaves (.hdrOther 0x80) (exchange [0x80, 0x06, 0x0B, 0, 0] .packetReady) (fun t => (t.sessionState, t.crcErrCount)) = some (.finish, 0) := by decide

/-- R173, example. -/
theorem test_notify :
    leaves .notify due (fun t => ((List.range 3).map t.pktByte, t.txLen, t.irqHoldoff, t.irqTimer, t.sessionState)) = some ([0x87, 0x05, 0x0B], 5, 27, 27, .txStart) := by decide

/-- 95 2.4 (f). -/
theorem test_addrBroadcast :
    leaves .addrBroadcast (exchange [0x81, 0xFF, 0x00, 0xB7] .decode) (fun t => (t.sessionState, t.trace)) = some (.finish, []) := by decide

/-- 95 2.4 (e). -/
theorem test_addrUnicast_other :
    leaves (.addrUnicast 0x06) (exchange [0x81, 0x06, 0x00, 0x1E] .decode) (fun t => (t.sessionState, t.trace)) = some (.finish, []) := by decide

/-- R175, example. -/
theorem test_noOp :
    leaves .noOp (exchange [0x81, 0x05, 0x00, 0x21] .decode) (fun t => (t.lastError, t.sessionState)) = some (0, .respond) := by decide

/-- 95 2.7 (b). -/
theorem test_noOp_parameter :
    leaves .noOp (exchange [0x81, 0x05, 0x00, 0x55, 0x4B] .decode) (fun t => (t.lastError, t.sessionState)) = some (2, .respond) := by decide

/-- 95 2.8 (a). -/
theorem test_getNodeId :
    leaves .getNodeId (exchange [0x82, 0x05, 0x01, 0x02, 0x03, 0x1A, 0x1B, 0x90, 0xD9] .decode) (fun t => (t.lastError, (List.range 7).map t.pktByte)) = some (0, [0x82, 0x05, 0x01, 0x34, 0x12, 0x02, 0x01]) := by decide

/-- 95 2.8 (b). -/
theorem test_getCommStatus :
    leaves .getCommStatus { exchange [0x82, 0x05, 0x02, 0x01, 0x00, 0x00, 0x6F, 0xA6] .decode with crcErrCount := 1, timeoutCount := 1 } (fun t => ((List.range 6).map t.pktByte, t.crcErrCount, t.timeoutCount)) = some ([0x82, 0x05, 0x02, 1, 1, 1], 0, 0) := by decide

/-- 95 2.8 (c). -/
theorem test_getIrqPoll :
    leaves .getIrqPoll (exchange [0x81, 0x05, 0x03, 0x00, 0xD8] .decode) (fun t => (t.pktByte 3, t.irqReason, t.irqRaised)) = some (1, 0, false) := by decide

/-- R263, example. -/
theorem test_outputSet :
    leaves .outputSet (exchange [0x81, 0x05, 0x04, 0x01, 0x01, 0x00, 0x0E] .decode) (fun t => (t.out0, t.out1, t.trace)) = some (false, true, [.outPin 1 true]) := by decide

/-- R263. -/
theorem test_outputClear :
    leaves .outputClear { exchange [0x81, 0x05, 0x04, 0x00, 0x00, 0x00, 0x00] .decode with out0 := true, out1 := true } (fun t => (t.out0, t.out1, t.trace)) = some (false, true, [.outPin 0 false]) := by decide

/-- R263, example. -/
theorem test_outputRead :
    leaves .outputRead { exchange [0x81, 0x05, 0x04, 0x01, 0x02, 0x00, 0x31] .decode with out1 := true } (fun t => (t.pktByte 5, t.lastError, t.trace)) = some (1, 0, []) := by decide

/-- R263, example. -/
theorem test_getSetOutput_channel :
    leaves .getSetOutput (exchange [0x82, 0x05, 0x04, 0x02, 0x01, 0x00, 0x97, 0xEB] .decode) (fun t => (t.lastError, t.out1, t.trace)) = some (2, false, []) := by decide

/-- R271 with R6. -/
theorem test_getVolts :
    leaves .getVolts (exchange [0x81, 0x05, 0x05, 0, 0, 0, 0, 0, 0, 0, 0, 0] .decode) (fun t => (t.i2cReg, t.i2cDir, t.i2cBusy, t.fgCont, t.sessionState)) = some (0x02, .read, true, .fgI2cWait, .decode) := by decide

/-- R271 with R6. -/
theorem test_getCurrent :
    leaves .getCurrent (exchange [0x81, 0x05, 0x06, 0, 0, 0, 0, 0, 0, 0, 0, 0] .decode) (fun t => (t.i2cReg, t.i2cDir, t.i2cBusy, t.fgCont, t.sessionState)) = some (0x04, .read, true, .fgI2cWait, .decode) := by decide

/-- R271 with R6. -/
theorem test_getPower :
    leaves .getPower (exchange [0x81, 0x05, 0x07, 0, 0, 0, 0, 0, 0, 0, 0, 0] .decode) (fun t => (t.i2cReg, t.i2cDir, t.i2cBusy, t.fgCont, t.sessionState)) = some (0x03, .read, true, .fgI2cWait, .decode) := by decide

/-- R271, example. -/
theorem test_telemetry_answer :
    leaves .pollFgI2cWait { transaction .read 0 with i2cBusy := false, i2cVal := 0x1234 } (fun t => ((List.range 8).map fun k => t.pktByte (3 + k), t.sessionState)) = some ([0, 0x34, 0x12, 1, 0, 0, 0, 0], .respond) := by decide

/-- R267, example. -/
theorem test_shuntWriteConfig :
    leaves .shuntWriteConfig (exchange [0x81, 0x05, 0x08, 0x01, 0x32, 0x64, 0x00, 0] .decode) (fun t => (t.cfgVrating, t.cfgIrating, t.cfgCal)) = some (50, 100, 0x3264) := by decide

/-- R267, example. -/
theorem test_shuntWriteConfig_pushes :
    leaves .shuntWriteConfig (exchange [0x81, 0x05, 0x08, 0x01, 0x32, 0x64, 0x00, 0] .decode) (fun t => (t.i2cReg, t.i2cVal, (List.range 6).map t.storeByte)) = some (0x05, 0x3264, [0x5A, 0xA5, 50, 0, 100, 0]) := by decide

/-- R267, example. -/
theorem test_getSetShuntConfig_bounds :
    leaves .getSetShuntConfig (exchange [0x81, 0x05, 0x08, 0x01, 0x51, 0x64, 0x00, 0] .decode) (fun t => (t.lastError, t.trace, t.cfgVrating)) = some (2, [], 50) := by decide

/-- R267, example. -/
theorem test_shuntReadConfig :
    leaves .shuntReadConfig (exchange [0x81, 0x05, 0x08, 0x00, 0, 0, 0, 0] .decode) (fun t => ((List.range 4).map fun k => t.pktByte (3 + k))) = some [0, 0x32, 0x64, 0] := by decide

/-- R267, example. -/
theorem test_shuntReadCal :
    leaves .shuntReadCal (exchange [0x81, 0x05, 0x08, 0x02, 0, 0, 0x77, 0] .decode) (fun t => ((List.range 4).map fun k => t.pktByte (3 + k))) = some [2, 0x64, 0x32, 0x77] := by decide

/-- 95 2.7 (d). -/
theorem test_cmdProgramAddress :
    leaves .cmdProgramAddress { exchange [0x81, 0x22, 0x09, 0xDB] .decode with addrProgEn := true } (fun t => (t.nodeAddr, t.trace, t.lastError, t.sessionState)) = some (0x22, [.storeWrite 16 0x22], 0, .respond) := by decide

/-- 95 2.7 (c). -/
theorem test_cmdProgramAddress_outside :
    leaves .cmdProgramAddress (exchange [0x81, 0x05, 0x09, 0x1E] .decode) (fun t => (t.nodeAddr, t.lastError)) = some (0x05, 1) := by decide

/-- 95 2.6 (e). -/
theorem test_enumerationRequest :
    leaves .enumerationRequest { exchange [0x82, 0xFF, 0x0A, 0x8F, 0xF7] .decode with irqHoldoff := 27 } (fun t => (t.irqReason, t.irqRaised, t.irqHoldoff, t.irqTimer, t.sessionState)) = some (2, true, 27, 27, .finish) := by decide

/-- 95 2.7 (a). -/
theorem test_cmdUnknown :
    leaves (.cmdUnknown 0x7F) (exchange [0x81, 0x05, 0x7F, 0x5B] .decode) (fun t => (t.lastError, t.sessionState)) = some (1, .respond) := by decide

/-- 95 2.6 (d). -/
theorem test_pollSStart_waits :
    leaves .pollSStart State.reset (fun t => (t.sessionState, t.trace)) = some (.start, []) := by decide

/-- R174, corner case. -/
theorem test_pollSPacketReady_empty :
    leaves .pollSPacketReady (exchange [] .packetReady) (fun t => (t.sessionState, t.crc16Mode)) = some (.finish, false) := by decide

/-- R175, example. -/
theorem test_pollSDecode :
    leaves .pollSDecode (exchange [0x81, 0x06, 0x00, 0x1E] .decode) (fun t => t.sessionState) = some .finish := by decide

/-- R176, example. -/
theorem test_pollSRespond :
    leaves .pollSRespond (exchange [0x81, 0x05, 0x00, 0x21] .respond) (fun t => (t.pktByte 0, t.txLen)) = some (0x83, 4) := by decide

/-- R177, example. -/
theorem test_pollSTxStart :
    leaves .pollSTxStart { exchange [0x83, 0x05, 0x00, 0x21] .txStart with txLen := 4 } (fun t => (t.pktByte 3, t.txRem, t.txBusy, t.txIrqEn, t.lineDriverEn)) = some (0xF7, 4, true, true, true) := by decide

/-- R134 and R206, examples. -/
theorem test_pollSTxStart_16 :
    leaves .poll { exchange [0x87, 0x05, 0x0B, 0, 0] .txStart with txLen := 5, crc16Mode := true } (fun t => (t.pktByte 3, t.pktByte 4)) = some (0x54, 0xF0) := by decide

/-- R178. -/
theorem test_pollSWaitTx :
    leaves .pollSWaitTx { sending [0x87, 0x05, 0x0B, 0x54, 0xF0] .idle 0 with txBusy := false, txIrqEn := false } (fun t => t.sessionState) = some .waitDrain := by decide

/-- 95 2.4 (h). -/
theorem test_pollSWaitDrain :
    leaves .pollSWaitDrain { State.reset with sessionState := .waitDrain, lineDriverEn := true } (fun t => (t.sessionState, t.lineDriverEn, t.trace)) = some (.finish, false, [.activityPulse]) := by decide

/-- R180. -/
theorem test_pollSFinish :
    leaves .pollSFinish (exchange [0x81, 0x05, 0x00, 0x21] .finish) (fun t => (t.pktReady, t.sessionState, t.rxState)) = some (false, .start, .finishing) := by decide

/-- R181. -/
theorem test_pollFgI2cWait :
    leaves .pollFgI2cWait (transaction .read 3) (fun t => (t.trace, t.sessionState, t.fgCont)) = some ([.wdtKick], .decode, .fgI2cWait) := by decide

/-- 95 2.5 (a) and (d). -/
theorem test_i2cPh0 :
    leaves (.i2cPh0 0x12) (transaction .read 0) (fun t => (t.busTrace, t.i2cPhase, t.i2cVal, t.i2cBusy)) = some ([.send 0x80], 1, 0x3264, true) := by decide

/-- 95 2.5 (a) and (d). -/
theorem test_i2cPh1 :
    leaves (.i2cPh1 0x12) (transaction .read 1) (fun t => (t.busTrace, t.i2cPhase, t.i2cVal, t.i2cBusy)) = some ([.send 0x02], 2, 0x3264, true) := by decide

/-- 95 2.5 (a) and (d). -/
theorem test_i2cPh2 :
    leaves (.i2cPh2 0x12) (transaction .read 2) (fun t => (t.busTrace, t.i2cPhase, t.i2cVal, t.i2cBusy)) = some ([.restart], 3, 0x3264, true) := by decide

/-- 95 2.5 (a) and (d). -/
theorem test_i2cPh3 :
    leaves (.i2cPh3 0x12) (transaction .read 3) (fun t => (t.busTrace, t.i2cPhase, t.i2cVal, t.i2cBusy)) = some ([.send 0x81], 4, 0x3264, true) := by decide

/-- 95 2.5 (a) and (d). -/
theorem test_i2cPh4 :
    leaves (.i2cPh4 0x12) (transaction .read 4) (fun t => (t.busTrace, t.i2cPhase, t.i2cVal, t.i2cBusy)) = some ([.rxEnable], 5, 0x3264, true) := by decide

/-- 95 2.5 (a) and (d). -/
theorem test_i2cPh5 :
    leaves (.i2cPh5 0x12) (transaction .read 5) (fun t => (t.busTrace, t.i2cPhase, t.i2cVal, t.i2cBusy)) = some ([.ack], 6, 0x1264, true) := by decide

/-- 95 2.5 (a) and (d). -/
theorem test_i2cPh6 :
    leaves (.i2cPh6 0x12) (transaction .read 6) (fun t => (t.busTrace, t.i2cPhase, t.i2cVal, t.i2cBusy)) = some ([.rxEnable], 7, 0x3264, true) := by decide

/-- 95 2.5 (a) and (d). -/
theorem test_i2cPh8 :
    leaves (.i2cPh8 0x12) (transaction .read 8) (fun t => (t.busTrace, t.i2cPhase, t.i2cVal, t.i2cBusy)) = some ([.stop], 0, 0x3264, false) := by decide

/-- 95 2.5 (a). -/
theorem test_i2cPh7 :
    leaves (.i2cPh7 0x34) (transaction .read 7) (fun t => (t.busTrace, t.i2cPhase, t.i2cVal, t.i2cBusy)) = some ([], 8, 0x3234, true) := by decide

/-- 95 2.5 (b). -/
theorem test_i2cPh2_write :
    leaves (.i2cEvent 0) (transaction .write 2) (fun t => (t.busTrace, t.i2cPhase, t.i2cBusy)) = some ([.send 0x32], 3, true) := by decide

/-- 95 2.5 (b). -/
theorem test_i2cPh3_write :
    leaves (.i2cEvent 0) (transaction .write 3) (fun t => (t.busTrace, t.i2cPhase, t.i2cBusy)) = some ([.send 0x64], 4, true) := by decide

/-- 95 2.5 (b). -/
theorem test_i2cPh4_write :
    leaves (.i2cEvent 0) (transaction .write 4) (fun t => (t.busTrace, t.i2cPhase, t.i2cBusy)) = some ([.stop], 0, false) := by decide

/-- 95 2.5 (c). -/
theorem test_i2cIllegal :
    leaves (.i2cIllegal 12 0) (transaction .read 12) (fun t => (t.busTrace, t.i2cPhase, t.i2cBusy, t.i2cErr)) = some ([], 0, true, false) := by decide

/-- 95 2.5 (c). -/
theorem test_i2cIllegal_policy :
    leaves (.i2cEvent 0) { transaction .read 12 with cfg := { T0 with i2cErrPolicy := .onIllegalCursor } } (fun t => (t.i2cPhase, t.i2cErr)) = some (0, true) := by decide

/-- R218, example. -/
theorem test_i2cAddrByte_write :
    leaves (.i2cAddrByte 0x40 .write) (transaction .write 0) (fun t => t.busTrace) = some [.send 0x80] := by decide

/-- R221, example. -/
theorem test_i2cAddrByte_read :
    leaves (.i2cAddrByte 0x40 .read) (transaction .read 3) (fun t => t.busTrace) = some [.send 0x81] := by decide

/-- R217. -/
theorem test_i2cEvent_disabled :
    leaves (.i2cEvent 0x12) State.reset (fun t => (t.busTrace, t.i2cVal)) = some ([], 0) := by decide

/-- R216, example. -/
theorem test_i2cBegin :
    leaves (.i2cBegin .read 0x02 0x7777) { State.reset with i2cVal := 0x3264, i2cErr := true, i2cPhase := 3 } (fun t => (t.busTrace, t.i2cReg, t.i2cVal, t.i2cErr, t.i2cPhase, t.i2cBusy)) = some ([.start], 0x02, 0x3264, false, 0, true) := by decide

/-- R133, example. -/
theorem test_crc8 :
    leaves (.crc8 [0x81, 0x05, 0x00]) State.reset (fun t => t.crc8Reg) = some 0x21 := by decide

/-- R132, example. -/
theorem test_crc8_lsb :
    leaves (.crc8 [0x01]) { State.reset with cfg := { T0 with crc8Dir := .lsbFirst, poly8 := 0x8C } } (fun t => t.crc8Reg) = some 0x5E := by decide

/-- R134, example. -/
theorem test_crc16 :
    leaves (.crc16 0 [0x87, 0x05, 0x0B]) State.reset (fun t => t.crc16Reg) = some 0xF054 := by decide

/-- R135, example. -/
theorem test_crc16_chained :
    leaves (.crc16 0xAACF [0x11, 0x22]) State.reset (fun t => t.crc16Reg) = some 0xEE74 := by decide

/-- R242, example. -/
theorem test_reseed :
    leaves .reseed State.reset (fun t => (t.irqHoldoff, t.irqTimer)) = some (27, 27) := by decide

/-- R243, example. -/
theorem test_raise :
    leaves (.raise 2) { State.reset with irqHoldoff := 27 } (fun t => (t.irqReason, t.irqRaised, t.irqTimer)) = some (2, true, 27) := by decide

/-- R268, example. -/
theorem test_programAddress :
    leaves (.programAddress 0x22) State.reset (fun t => (t.nodeAddr, t.storeTrace, t.storeByte 16, t.irqHoldoff)) = some (0x22, [(16, 0x22)], 0x22, 5) := by decide

/-- R315, example; R313 and R314 under T0 with an erased store. -/
theorem test_reset : (State.reset.nodeAddr, State.reset.irqReason, State.reset.irqRaised, State.reset.irqHoldoff,
    State.reset.irqTimer, State.reset.cfgVrating, State.reset.cfgIrating) = (5, 1, true, 5, 5, 50, 100) := by
  decide

/-- The general law of the store at power-up: 95_test_vectors.md 2.6 (a), address 25 hex. -/
theorem test_powerUp_address :
    (State.powerUp T0 [(16, 0x25)] Unspecified.zero).irqHoldoff = 5 := by decide

/-! ## The hypotheses of the statements are met

One theorem for each statement that has hypotheses: concrete states and operands that meet them together, for
each clause, at the boundary values of its ranges. -/

/-- The next input, with the programming level on and the serial port not yet empty. -/
def given (e : Event) (s : State) : State := { s with script := [⟨e, true, false⟩] }

/-- Whether the step answers a next state. -/
def goesOn (s : State) : Bool :=
  match step s with
  | .next _ => true
  | .fault _ => false
  | .refused _ => false

/-- A ratings record in the store: signature, 80 volts, 200 amperes. -/
def storedRecord : Memory := [(0, 0x5A), (1, 0xA5), (2, 80), (3, 0), (4, 200), (5, 0)]

/-- A frame of `n` parameters for the reset node's address, the first of them given. -/
def request (c : Byte) (params : Bytes) (n : Nat) : State :=
  exchange ([0x81, 0x05, c] ++ params ++ List.replicate (n + 1 - params.length) 0) .decode

theorem witness_DecodeOfEncodeIsTheInstruction : T0.Legal ∧
    ∀ i ∈ [Instr.rxDrop 0xFF, .rxEscaped 0x02, .rxData 0x1B, .rxIgnore 0x03, .hdrOther 0x80, .addrUnicast 0xFE,
      .cmdUnknown 0x0B, .i2cIllegal 9 0xFF, .i2cIllegal 15 0, .i2cAddrByte 0x40 .read,
      .crc8 (List.replicate 255 0xFF), .crc16 0xFFFF [], .raise 0xFF, .programAddress 0xFE],
      i.wellFormed T0 = true := by decide

theorem witness_DecodedInstructionIsWellFormed :
    decode T0 [1, 0, 1, 0, 0x1B, 7] = .instr (.rxData 0x1B) [7] := by decide

theorem witness_StepRunsTheDecodedInstruction :
    (given (.rxByte 0x1B) (assembling 15)).cfg.Legal
    ∧ fetch ((given (.rxByte 0x1B) (assembling 15)).accept ⟨.rxByte 0x1B, true, false⟩ []) (.rxByte 0x1B)
        = .ok [[1, 0, 1, 0, 0x1B]]
    ∧ decode (given (.rxByte 0x1B) (assembling 15)).cfg [1, 0, 1, 0, 0x1B] = .instr (.rxData 0x1B) []
    ∧ (given .tick (assembling 15)).script = [⟨.tick, true, false⟩] := ⟨by decide, rfl, by decide, rfl⟩

theorem witness_StepIsOneOperation :
    (given .poll State.reset).cfg.Legal ∧ (given .poll State.reset).script = ⟨.poll, true, false⟩ :: [] := by decide

theorem witness_IllegalConfigurationIsRefused :
    { T0 with frameEnd := 0x02 }.frameStart = { T0 with frameEnd := 0x02 }.frameEnd
    ∧ ¬ { T0 with frameStart := 0x1B }.frameStart ≤ { T0 with frameStart := 0x1B }.esc
    ∧ ¬ { T0 with hdrIrq16 := 0x81 }.headers.Nodup
    ∧ ¬ { T0 with cmdEnumRequest := 0x09 }.commands.Nodup
    ∧ ¬ 5 ≤ { T0 with cap := 4 }.cap ∧ ¬ { T0 with cap := 255 }.cap ≤ 254
    ∧ { T0 with defaultAddr := 0xFF }.defaultAddr = 255
    ∧ ¬ [T0.errNone, T0.errBadCmd, { T0 with errBadParam := 1 }.errBadParam].Nodup
    ∧ { T0 with rxTimeoutTicks := 0 }.rxTimeoutTicks = 0 := by decide

theorem witness_DroppedAndIgnoredBytesChangeNothing :
    (exchange [0x81] .start).pktReady = true
    ∧ (State.reset.pktReady = false ∧ (0x03 : Byte) ≠ State.reset.cfg.frameStart ∧ State.reset.rxState = .idle)
    ∧ { exchange [0x81] .start with pktReady := false }.rxState = .finishing := by decide

/-- Idle with a stale escape flag, and assembling without one. -/
theorem witness_StartMarkerBeginsAFrame :
    ∀ s ∈ [{ State.reset with rxEsc := true }, assembling 17],
      s.pktReady = false ∧ ¬ (s.rxState = .assembling ∧ s.rxEsc = true) := by decide

theorem witness_EndMarkerAndEscapeByte :
    (assembling 0).cfg.Legal ∧ (assembling 0).pktReady = false ∧ (assembling 0).rxState = .assembling
    ∧ (assembling 0).rxEsc = false := by decide

/-- The last index that is stored, the first that is not, and the saturated one. -/
theorem witness_EscapedByteIsAppended :
    ∀ n ∈ [0, 15, 16, 17],
      { assembling n with rxEsc := true }.pktReady = false ∧ { assembling n with rxEsc := true }.rxEsc = true
      ∧ (n < T0.cap ∨ T0.cap ≤ n) := by decide

theorem witness_DataByteIsAppended :
    ∀ n ∈ [0, 15, 16, 17],
      (assembling n).pktReady = false ∧ (assembling n).rxState = .assembling ∧ (assembling n).rxEsc = false
      ∧ ∀ b ∈ [(0x00 : Byte), 0x19, 0x1B, 0xFF], b ≠ T0.frameStart ∧ b ≠ T0.frameEnd ∧ b ≠ T0.esc := by decide

theorem witness_TickHalves :
    { assembling 3 with rxTimeout := 1 }.rxState = .assembling
    ∧ 2 ≤ { assembling 3 with rxTimeout := 2 }.rxTimeout ∧ State.reset.rxState ≠ .assembling := by decide

/-- The packet 81 02 of 30_encoding.md R93, with three ticks between its bytes. -/
theorem witness_ReceiverInvertsTheWireForm :
    State.reset.cfg.Legal ∧ State.reset.pktReady = false
    ∧ ¬ (State.reset.rxState = .assembling ∧ State.reset.rxEsc = true)
    ∧ [(0x81 : Byte), 0x02].length ≤ State.reset.cfg.cap
    ∧ (Instr.rxByte State.reset.cfg.frameStart ::
        [.tickRx, .rxByte 0x81, .rxByte 0x1A, .tickRx, .rxByte 0x02, .tickRx, .rxByte 0x03]).filter
          (fun i => decide (i ≠ .tickRx)) = (wireFrame State.reset.cfg [0x81, 0x02]).map .rxByte
    ∧ [Instr.tickRx, .rxByte 0x81, .rxByte 0x1A, .tickRx, .rxByte 0x02, .tickRx, .rxByte 0x03].count .tickRx
        < State.reset.cfg.rxTimeoutTicks := by decide

theorem witness_ReadyPacketIsUntouchedByHandlers :
    ∀ e ∈ [Event.rxByte 0x02, .tick, .txReady, .i2cEvent 0],
      (given e (exchange [0x81] .start)).pktReady = true
      ∧ (given e (exchange [0x81] .start)).rxState = .finishing
      ∧ e ≠ .poll ∧ goesOn (given e (exchange [0x81] .start)) = true := by decide

theorem witness_TransmitEventRunsItsRow :
    State.reset.txIrqEn = false
    ∧ ∀ st ∈ [TxState.idle, .sending, .escWait, .done],
        (sending [0x87, 0x05, 0x0B, 0x54, 0xF0] st 4).txIrqEn = true
        ∧ (sending [0x87, 0x05, 0x0B, 0x54, 0xF0] st 4).txState = st
        ∧ (sending [0x87, 0x05, 0x0B, 0x54, 0xF0] st 4).txIdx < T0.cap := by decide

theorem witness_TransmitMarkers :
    ∀ st ∈ [TxState.idle, .done],
      (sending [0x87] st 0).txIrqEn = true ∧ (sending [0x87] st 0).txState = st := by decide

/-- Above ESC, ESC itself, and after the escape byte; one byte left, and more. -/
theorem witness_TransmitDataBytes :
    ∀ n ∈ [0, 1], ∀ p ∈ [(0x1B : Byte), 0x1A], ∀ st ∈ [TxState.sending, .escWait],
      (sending [p, p] st n).txIrqEn = true ∧ (sending [p, p] st n).txState = st
      ∧ (sending [p, p] st n).txIdx < T0.cap ∧ (sending [p, p] st n).pktByte n = p
      ∧ 1 ≤ (sending [p, p] st n).txRem ∧ (T0.esc < p ↔ p = 0x1B) := by decide

theorem witness_ArmedTransmitterSendsTheWireForm :
    ∀ n ∈ [1, 16],
      (sending (List.replicate n 0x05) .idle 0).txIrqEn = true
      ∧ (sending (List.replicate n 0x05) .idle 0).txIdx = 0
      ∧ 1 ≤ (sending (List.replicate n 0x05) .idle 0).txRem
      ∧ (sending (List.replicate n 0x05) .idle 0).txRem ≤ T0.cap
      ∧ (sending (List.replicate n 0x05) .idle 0).pktBytes n = List.replicate n 0x05 := by decide

theorem witness_TransactionBegins :
    State.reset.i2cBusy = false ∧ (transaction .read 0).i2cBusy = true := by decide

theorem witness_BusEventRunsThePhase :
    State.reset.i2cBusy = false
    ∧ ∀ p ∈ [(0 : BitVec 4), 4, 6, 8, 15], (transaction .read p).i2cBusy = true ∧ p ≠ 5 ∧ p ≠ 7 := by decide

/-- AddressAndPointerPhases, DirectionPhases, CapturePhases and ReadAddressByte: every phase, both directions. -/
theorem witness_phases :
    ∀ p ∈ [(0 : BitVec 4), 1, 2, 3, 4, 5, 6, 7, 8], ∀ dir ∈ [Dir.read, .write],
      (transaction dir p).i2cBusy = true ∧ (transaction dir p).i2cPhase = p
      ∧ (transaction dir p).i2cDir = dir := by decide

theorem witness_IllegalCursorResets :
    ∀ p ∈ [(9 : BitVec 4), 15], (transaction .write p).i2cBusy = true ∧ 9 ≤ (transaction .write p).i2cPhase := by decide

theorem witness_TransactionRunsItsPhases :
    State.reset.i2cBusy = false ∧ [(0 : Byte), 1, 2, 3, 4, 5, 6, 7, 8].length = 9
    ∧ [(0 : Byte), 1, 2, 3, 4, 5, 6, 7].length ≤ 8 ∧ [(0 : Byte), 1, 2, 3, 4].length = 5
    ∧ ([] : Bytes).length ≤ 4 := by decide

theorem witness_SessionTransitions :
    ∀ st ∈ [SessionState.start, .packetReady, .decode, .respond, .txStart, .waitTx, .waitDrain, .finish],
      { exchange [0x81, 0x05, 0x00, 0x21] st with txLen := 4 }.cfg.Legal
      ∧ { exchange [0x81, 0x05, 0x00, 0x21] st with txLen := 4 }.fgCont ≠ .fgI2cWait
      ∧ leaves .poll { exchange [0x81, 0x05, 0x00, 0x21] st with txLen := 4 } (fun _ => ()) = some () := by decide

theorem witness_StartSelectsFrameOrNotification :
    (exchange [0x81] .start).polls .start ∧ (exchange [0x81] .start).pktReady = true
    ∧ due.polls .start ∧ due.pktReady = false
    ∧ (due.irqRaised = true ∧ due.irqTimer = 0 ∧ due.addrProgEn = false)
    ∧ ¬ { due with irqTimer := 1 }.irqTimer = 0 ∧ T0.Legal := by decide

/-- No byte, no request, and each request at the lengths around its bounds. -/
theorem witness_PacketReadyValidates :
    (exchange [] .packetReady).polls .packetReady ∧ (exchange [] .packetReady).rxIdx = 0
    ∧ (exchange [0x83] .packetReady).pktByte 0 ≠ T0.hdrReq8
    ∧ ∀ n ∈ [1, 3, 4, 5, 16, 17], ∀ h ∈ [(0x81 : Byte), 0x82],
        { exchange [h] .packetReady with rxIdx := n }.cfg.Legal
        ∧ { exchange [h] .packetReady with rxIdx := n }.polls .packetReady ∧ 1 ≤ n
        ∧ { exchange [h] .packetReady with rxIdx := n }.pktByte 0 = h := by decide

theorem witness_WrongHeaderIsAbandoned :
    ∀ b ∈ [(0x80 : Byte), 0x83, 0x84, 0x85, 0x86, 0x87, 0x88],
      (exchange [b] .packetReady).cfg.Legal ∧ (exchange [b] .packetReady).polls .packetReady
      ∧ 1 ≤ (exchange [b] .packetReady).rxIdx ∧ (exchange [b] .packetReady).pktByte 0 = b
      ∧ b ≠ T0.hdrReq8 ∧ b ≠ T0.hdrReq16 := by decide

theorem witness_PrivacyAndBroadcastSilence :
    ∀ a ∈ [(0x04 : Byte), 0x06, 0xFE, 0xFF],
      (exchange [0x81, a, 0x08, 0x1E] .decode).decoding 0x08 ∧ State.reset.addrProgEn = false
      ∧ (exchange [0x81, a, 0x08, 0x1E] .decode).pktByte 1 = a ∧ a ≠ State.reset.nodeAddr := by decide

theorem witness_BroadcastCommands :
    ∀ x ∈ [(0x00 : Byte), 0x09, 0x0A, 0x0B],
      (exchange [0x81, 0xFF, x, 0] .decode).decoding x
      ∧ (exchange [0x81, 0xFF, x, 0] .decode).pktByte 1 = broadcast := by decide

theorem witness_AddressProgrammingMode :
    ∀ a ∈ [(0x00 : Byte), 0xFE, 0xFF], ∀ x ∈ [(0x09 : Byte), 0x00],
      { exchange [0x81, a, x, 0] .decode with addrProgEn := true }.decoding x
      ∧ { exchange [0x81, a, x, 0] .decode with addrProgEn := true }.pktByte 1 = a := by decide

theorem witness_BadCommandIsAnsweredNegatively :
    ∀ x ∈ [(0x0B : Byte), 0xFF, 0x0A, 0x09], (request x [] 0).ownCommand x
      ∧ (x ∉ T0.commands ∨ x = T0.cmdEnumRequest ∨ x = T0.cmdProgramAddress) := by decide

/-- WrongParameterCount, NoOpCommand, GetNodeIdCommand, GetCommStatusCommand, GetIrqPollCommand: the count, one
less and one more. -/
theorem witness_parameter_counts :
    ∀ q ∈ [((0x00 : Byte), 0), (0x01, 4), (0x02, 3), (0x03, 1), (0x04, 3), (0x05, 8), (0x08, 4)],
      ∀ n ∈ [q.2 - 1, q.2, q.2 + 1], (request q.1 [] n).ownCommand q.1 ∧ (request q.1 [] n).paramLen = n := by decide

theorem witness_GetCommStatusCommand :
    (request 0x02 [0] 3).pktByte 3 = 0 ∧ (request 0x02 [1] 3).pktByte 3 ≠ 0
    ∧ (request 0x02 [1] 3).ownCommand T0.cmdGetCommStatus := by decide

/-- Every clause at its boundary: channel, sub-command, third parameter. -/
theorem witness_OutputCommand :
    ∀ ch ∈ [(0 : Byte), 1, 2], ∀ sub ∈ [(0 : Byte), 1, 2, 3],
      (request 0x04 [ch, sub, 0] 3).ownCommand T0.cmdOutput ∧ (request 0x04 [ch, sub, 0] 3).paramLen = 3
      ∧ (request 0x04 [ch, sub, 0] 3).pktBytes 6 = [0x81, 0x05, 0x04, ch, sub, 0] := by decide

theorem witness_OutputCommand_parameter :
    (request 0x04 [1, 1, 1] 3).ownCommand T0.cmdOutput ∧ (request 0x04 [1, 1, 1] 3).pktByte 5 ≠ 0 := by decide

theorem witness_TelemetryCommands :
    ∀ x ∈ [(0x05 : Byte), 0x06, 0x07], (request x [] 8).decoding x ∧ (request x [] 8).ownCommand x
      ∧ (request x [] 8).paramLen = 8 ∧ (request x [] 7).paramLen ≠ 8 ∧ (request x [] 8).i2cBusy = false := by decide

theorem witness_ShuntConfigReads :
    ∀ sub ∈ [(0 : Byte), 2, 3], (request 0x08 [sub] 4).ownCommand T0.cmdShuntConfig
      ∧ (request 0x08 [sub] 4).paramLen = 4 ∧ (request 0x08 [sub] 4).pktByte 3 = sub := by decide

/-- Both bounds of both ratings, inside and outside. -/
theorem witness_ShuntConfigWrite :
    ∀ v ∈ [(0 : Byte), 1, 80, 81], ∀ r ∈ [(0 : Byte), 1, 200, 201],
      (request 0x08 [1, v, r, 0] 4).ownCommand T0.cmdShuntConfig
      ∧ (request 0x08 [1, v, r, 0] 4).paramLen = 4 ∧ (request 0x08 [1, v, r, 0] 4).pktByte 3 = 1
      ∧ (request 0x08 [1, v, r, 0] 4).pktByte 4 = v ∧ (request 0x08 [1, v, r, 0] 4).pktByte 5 = r
      ∧ (request 0x08 [1, v, r, 0] 4).i2cBusy = false := by decide

theorem witness_HoldServicesTheWatchdog :
    (transaction .read 3).fgCont = .fgI2cWait ∧ (transaction .read 3).i2cBusy = true := by decide

theorem witness_ProgramAddressPersists : (0xFE : Byte) ≠ broadcast ∧ (0xFF : Byte) = broadcast := by decide

/-- The four acknowledgement variants. -/
theorem witness_RespondSelectsTheVariant :
    ∀ h ∈ [(0x81 : Byte), 0x82], ∀ e ∈ [(0 : Byte), 2],
      { exchange [h, 0x05, 0x00, 0, 0] .respond with lastError := e }.cfg.Legal
      ∧ { exchange [h, 0x05, 0x00, 0, 0] .respond with lastError := e }.polls .respond
      ∧ ({ exchange [h, 0x05, 0x00, 0, 0] .respond with lastError := e }.crc16Mode = true ↔ h = 0x82) := by decide

/-- The shortest and the longest packet of each width. -/
theorem witness_TransmitStartWritesCrcAndArms :
    ∀ q ∈ [((0x81 : Byte), 4), (0x81, 16), (0x82, 5), (0x82, 16)],
      { exchange [q.1] .txStart with txLen := q.2 }.polls .txStart
      ∧ { exchange [q.1] .txStart with txLen := q.2 }.overhead ≤ q.2 ∧ q.2 ≤ T0.cap
      ∧ ({ exchange [q.1] .txStart with txLen := q.2 }.crc16Mode = true ↔ q.1 = 0x82) := by decide

theorem witness_SettleStates :
    (sending [0x87] .idle 0).polls .waitTx
    ∧ (∀ l ∈ [true, false], { State.reset with sessionState := .waitDrain, uartTxEmpty := l }.polls .waitDrain)
    ∧ (exchange [0x81] .finish).polls .finish := by decide

theorem witness_CrcLaws : T0.crc8Init = 0 ∧ { State.reset with irqHoldoff := 0 }.cfg = T0 := by decide

theorem witness_PowerUpLoadsTheStore :
    pair (storedRecord.read .store (T0.cfgOffset + 1)) (storedRecord.read .store T0.cfgOffset) = T0.cfgSignature
    ∧ pair (Memory.read .store [] (T0.cfgOffset + 1)) (Memory.read .store [] T0.cfgOffset) ≠ T0.cfgSignature := by decide

theorem witness_PowerUpMeetsTheInvariants :
    T0.Legal ∧ storedRecord.wf .store ∧ Memory.wf .pkt [(15, 0x01)] ∧ ∀ x ∈ [((15 : Nat), (0x01 : Byte))], x.1 < T0.cap := by
  decide

theorem witness_reset_meets_the_invariants : Sys2Proof.Machine.Inv State.reset := by
  constructor <;> decide

/-- StepNeverStops and StepKeepsTheInvariants: the transmitter at work, and a bus transaction with the foreground
held. -/
theorem witness_invariants_transmit :
    Sys2Proof.Machine.Inv (given .txReady (sending [0x87, 0x05, 0x0B, 0x54, 0xF0] .sending 1)) := by
  constructor <;> decide

theorem witness_invariants_hold : Sys2Proof.Machine.Inv (given .poll (transaction .read 8)) := by
  constructor <;> decide

/-- StepKeepsTheInvariants and StepAppendsItsOutput: both states go on. -/
theorem witness_steps :
    goesOn (given .txReady (sending [0x87, 0x05, 0x0B, 0x54, 0xF0] .sending 1)) = true
    ∧ goesOn (given .poll (transaction .read 8)) = true := by decide

end Sys2Proof.Tests
end

