-- ==== Sys2Proof/Proofs/Step.lean ====
section
/-! ## The step as one operation (obligations O4, O5, O6)

What each coded word of `fetch` decodes to, and from it that fetching, decoding and executing an input's words runs
the input's operation of 00_scope.md R9. -/

namespace Sys2Proof.Machine

/-! ### Decoding the words that `fetch` presents -/

@[simp] theorem bitOf_bitCode (b : Bool) : bitOf (bitCode b) = some b := by cases b <;> rfl

@[simp] theorem rxStateOf_code (st : RxState) : rxStateOf st.code = some st := by cases st <;> rfl

@[simp] theorem txStateOf_code (st : TxState) : txStateOf st.code = some st := by cases st <;> rfl

@[simp] theorem sessionOf_code (st : SessionState) : sessionOf st.code = some st := by cases st <;> rfl

@[simp] theorem fgContOf_code (f : FgCont) : fgContOf f.code = some f := by cases f <;> rfl

theorem decode_rxWord (c : Cfg) (ready esc : Bool) (st : RxState) (b : Byte) :
    decode c [1, bitCode ready, st.code, bitCode esc, b]
      = .instr ((Sys2Proof.rxClass c ready st esc b).instr b) [] := by
  simp [decode, decodeRx]

theorem decode_txWord (c : Cfg) (st : TxState) (p : Byte) :
    decode c [2, st.code, p] = .instr (txAction c st p).instr [] := by
  simp [decode, decodeTx]

theorem decode_sessionWord (c : Cfg) (f : FgCont) (st : SessionState) :
    decode c [9, f.code, st.code] = .instr (pollInstr f st) [] := by
  simp [decode, decodeSession]

theorem decode_phaseWord (c : Cfg) (p : BitVec 4) (d : Byte) :
    decode c [10, p.setWidth 8, d] = .instr (phaseInstr p d) [] := by
  have hp : p.setWidth 8 < 16 := by bv_omega
  have hback : (p.setWidth 8).setWidth 4 = p := by simp
  simpa [decode, decodePhase, hback] using hp

/-! ### The row a class stands for is what its operation runs -/

theorem exec_rxClass_instr (b : Byte) (s : State) :
    exec ((s.rxClass b).instr b) s = exec (.rxByte b) s := by
  simp only [exec.eq_def (.rxByte b), execRxByte]
  cases s.rxClass b <;> rfl

theorem exec_pollInstr (s : State) : exec (pollInstr s.fgCont s.sessionState) s = exec .poll s := by
  simp only [exec.eq_def .poll, execPoll]
  cases s.fgCont with
  | fgI2cWait => rfl
  | fgNone => cases s.sessionState <;> rfl

theorem exec_txReady_sending {s : State} (hen : s.txIrqEn = true) (hst : s.txState = .sending) :
    exec .txReady s
      = readPkt s s.txIdx fun p => if p ≤ s.cfg.esc then execTxEsc s else execTxData s := by
  simp only [exec, execTxReady, if_pos hen, hst]

/-- 43_frame_transmitter.md R200: the transmit action of an enabled transmitter is the one `TX_READY` runs; the next
byte of the packet matters while sending only. -/
theorem exec_txAction_instr {s : State} {p : Byte} (hen : s.txIrqEn = true)
    (hp : s.txState = .sending → s.txIdx < s.cfg.cap ∧ p = s.pktByte s.txIdx) :
    exec (txAction s.cfg s.txState p).instr s = exec .txReady s := by
  cases hst : s.txState with
  | sending =>
    obtain ⟨hidx, rfl⟩ := hp hst
    rw [exec_txReady_sending hen hst, readPkt, if_pos hidx]
    by_cases hesc : s.pktByte s.txIdx ≤ s.cfg.esc <;> simp only [txAction, hesc, if_true, if_false] <;> rfl
  | idle | escWait | done =>
    simp only [exec.eq_def .txReady, execTxReady, if_pos hen, hst]
    rfl

/-- 44_i2c_engine.md R215: the phase row of a busy engine is the row `I2C_EVENT` runs. -/
theorem exec_phaseInstr {s : State} (h : s.i2cBusy = true) (d : Byte) :
    exec (phaseInstr s.i2cPhase d) s = exec (.i2cEvent d) s := by
  simp only [exec.eq_def (.i2cEvent d), execI2cEvent, if_pos h]
  generalize hp : s.i2cPhase = p
  obtain ⟨n, hn⟩ := p
  interval_cases n <;> rfl


/-! ### One operation for an event -/

theorem execAll_singleton (i : Instr) (s : State) : execAll [i] s = exec i s := by
  simp only [execAll]
  cases exec i s <;> rfl

/-- The operations of an event, 00_scope.md R9: a `TICK` has two halves (log entry 14). -/
def Event.operations : Event → List Instr
  | .rxByte b => [.rxByte b]
  | .txReady => [.txReady]
  | .tick => [.tickRx, .tickArb]
  | .i2cEvent d => [.i2cEvent d]
  | .poll => [.poll]

/-- Fetch an event's words and run them, on the state that took the input. -/
def runEvent (e : Event) (s : State) : Result :=
  match fetch s e with
  | .ok ws => runWords ws s
  | .error f => .fault f

theorem runInput_eq_runEvent (inp : Input) (rest : List Input) (s : State) :
    runInput inp rest s = runEvent inp.event (s.accept inp rest) := rfl

theorem runEvent_of_fetch {e : Event} {s : State} {w : Bytes} {i : Instr}
    (hf : fetch s e = .ok [w]) (hd : decode s.cfg w = .instr i []) : runEvent e s = exec i s := by
  simp only [runEvent, hf, runWords_one hd]

theorem runEvent_rxByte (b : Byte) (s : State) : runEvent (.rxByte b) s = exec (.rxByte b) s := by
  rw [runEvent_of_fetch rfl (decode_rxWord ..)]
  exact exec_rxClass_instr b s

theorem runEvent_txReady (s : State) : runEvent .txReady s = exec .txReady s := by
  by_cases hen : s.txIrqEn = true
  · by_cases hst : s.txState = .sending
    · by_cases hidx : s.txIdx < s.cfg.cap
      · have hf : fetch s .txReady = .ok [[2, s.txState.code, s.pktByte s.txIdx]] := by
          simp only [fetch, if_pos hen, hst, if_pos hidx]
        rw [runEvent_of_fetch hf (decode_txWord ..), exec_txAction_instr hen fun _ => ⟨hidx, rfl⟩]
      · rw [exec_txReady_sending hen hst, readPkt, if_neg hidx]
        simp only [runEvent, fetch, if_pos hen, hst, if_neg hidx]
    · have hf : fetch s .txReady = .ok [[2, s.txState.code, 0]] := by
        cases h : s.txState <;> simp_all [fetch]
      rw [runEvent_of_fetch hf (decode_txWord ..), exec_txAction_instr hen fun h => absurd h hst]
  · exact runEvent_of_fetch (w := [12, 1]) (by simp only [fetch, if_neg hen]) rfl

/-- Both halves of a `TICK` in one step; the first keeps the configuration, so the second word decodes alike. -/
theorem runEvent_tick (s : State) : runEvent .tick s = execAll [.tickRx, .tickArb] s := rfl

theorem runEvent_i2cEvent (d : Byte) (s : State) : runEvent (.i2cEvent d) s = exec (.i2cEvent d) s := by
  by_cases hb : s.i2cBusy = true
  · have hf : fetch s (.i2cEvent d) = .ok [[10, s.i2cPhase.setWidth 8, d]] := by
      simp only [fetch, if_pos hb]
    rw [runEvent_of_fetch hf (decode_phaseWord ..), exec_phaseInstr hb]
  · exact runEvent_of_fetch (w := [12, 4, d]) (by simp only [fetch, if_neg hb]) rfl

theorem runEvent_poll (s : State) : runEvent .poll s = exec .poll s := by
  rw [runEvent_of_fetch rfl (decode_sessionWord ..), exec_pollInstr]

/-- Fetching and decoding an event's words never differs from running its operations. -/
theorem runEvent_eq_execAll (e : Event) (s : State) : runEvent e s = execAll e.operations s := by
  cases e with
  | rxByte b => rw [runEvent_rxByte, Event.operations, execAll_singleton]
  | txReady => rw [runEvent_txReady, Event.operations, execAll_singleton]
  | tick => exact runEvent_tick s
  | i2cEvent d => rw [runEvent_i2cEvent, Event.operations, execAll_singleton]
  | poll => rw [runEvent_poll, Event.operations, execAll_singleton]

/-! ### The step -/

theorem step_of_not_legal {s : State} (h : ¬ s.cfg.Legal) : step s = .refused .illegalConfiguration := by
  rw [step, stepState, if_neg h]

theorem step_of_script_nil {s : State} (hl : s.cfg.Legal) (hs : s.script = []) : step s = .next s := by
  simp only [step, stepState, if_pos hl, hs]

theorem step_of_script_cons {s : State} {inp : Input} {rest : List Input} (hl : s.cfg.Legal)
    (hs : s.script = inp :: rest) : step s = runEvent inp.event (s.accept inp rest) := by
  simp only [step, stepState, if_pos hl, hs, runInput_eq_runEvent]

theorem step_eq_execAll {s : State} {inp : Input} {rest : List Input} (hl : s.cfg.Legal)
    (hs : s.script = inp :: rest) : step s = execAll inp.event.operations (s.accept inp rest) := by
  rw [step_of_script_cons hl hs, runEvent_eq_execAll]

/-! ### The obligations -/

/-- Settles O4: `step` is `runEvent`, which runs one decoded word as its instruction and a `TICK` as two. -/
theorem stepRunsTheDecodedInstruction : Obligations.StepRunsTheDecodedInstruction := by
  intro s inp rest hl hs
  refine ⟨fun w i hf hd => ?_, fun he => ?_⟩
  · rw [step_of_script_cons hl hs]
    exact runEvent_of_fetch hf hd
  · rw [step_eq_execAll hl hs, he, Event.operations]

/-- Settles O5, by cases on the event: its operations, with the runs of one operation written as `exec`. -/
theorem stepIsOneOperation : Obligations.StepIsOneOperation := by
  intro s inp rest hl hs
  rw [step_eq_execAll hl hs]
  cases inp.event with
  | tick => rfl
  | rxByte b => exact execAll_singleton (.rxByte b) _
  | txReady => exact execAll_singleton .txReady _
  | i2cEvent d => exact execAll_singleton (.i2cEvent d) _
  | poll => exact execAll_singleton .poll _

/-- Settles O6: each constraint of 00_scope.md R7 follows from `Cfg.Legal`, so where one is broken the step refuses. -/
theorem illegalConfigurationIsRefused : Obligations.IllegalConfigurationIsRefused := by
  intro s hbroken
  refine step_of_not_legal fun hl => ?_
  obtain ⟨hmarks, hesc, hheaders, hcommands, hcap, haddr, hcodes, hticks, -⟩ := hl
  rcases hbroken with h | h | h | h | h | h | h | h
  · exact h (by simpa [and_assoc] using hmarks)
  · exact h hesc
  · exact h hheaders
  · exact h hcommands
  · exact h hcap
  · exact haddr h
  · exact h hcodes
  · omega

end Sys2Proof.Machine
end

