-- ==== Sys2Proof/Proofs/Outputs.lean ====
section
/-! ## What a step appends to the output trace (obligation O60)

`Silent s t`: the configuration of `s` kept, the trace of `s` extended by actions none of which is a `UartWrite`. Every
operation but `TX_READY` is silent; the proofs follow the definitions of the meanings, one lemma for each. -/

namespace Sys2Proof.Machine

/-- From `s` to `t` the configuration is kept and the new output actions write nothing to the serial line. -/
def Silent (s t : State) : Prop :=
  t.cfg = s.cfg ∧ ∃ l, t.trace = s.trace ++ l ∧ ∀ b, Output.uartWrite b ∉ l

/-- Every next state a result answers is reached silently from `s`. -/
def SilentFrom (s : State) (r : Result) : Prop := ∀ t, r = .next t → Silent s t

/-! ### States -/

section States
variable {s t u : State}

theorem Silent.of_eq (hc : t.cfg = s.cfg) (ht : t.trace = s.trace) : Silent s t :=
  ⟨hc, [], by simp [ht], by simp⟩

theorem Silent.refl (s : State) : Silent s s := .of_eq rfl rfl

theorem Silent.trans (hst : Silent s t) (htu : Silent t u) : Silent s u := by
  obtain ⟨hc, l, ht, hl⟩ := hst
  obtain ⟨hc', l', ht', hl'⟩ := htu
  exact ⟨hc'.trans hc, l ++ l', by rw [ht', ht, List.append_assoc], fun b hb =>
    (List.mem_append.1 hb).elim (hl b) (hl' b)⟩

/-- An action that is no `UartWrite` is silent. -/
theorem silent_emit {o : Output} (ho : o.onWire = none) (s : State) : Silent s (emit o s) := by
  refine ⟨rfl, [o], rfl, fun b hb => ?_⟩
  rw [← List.mem_singleton.1 hb] at ho
  cases ho

/-- A change of fields other than the configuration and the trace, then an action that is no `UartWrite`. -/
theorem Silent.emit_of_eq {o : Output} (ho : o.onWire = none) (hc : t.cfg = s.cfg)
    (ht : t.trace = s.trace) : Silent s (emit o t) :=
  (Silent.of_eq hc ht).trans (silent_emit ho t)

end States

/-! ### Results -/

section Results
variable {s t u : State} {r : Result}

theorem SilentFrom.next (h : Silent s t) : SilentFrom s (.next t) := by
  rintro _ ⟨⟩; exact h

theorem SilentFrom.fault (f : Fault) : SilentFrom s (.fault f) := by
  rintro _ ⟨⟩

theorem SilentFrom.refused (f : Refusal) : SilentFrom s (.refused f) := by
  rintro _ ⟨⟩

theorem SilentFrom.of_eq (hc : t.cfg = s.cfg) (ht : t.trace = s.trace) : SilentFrom s (.next t) :=
  .next (.of_eq hc ht)

theorem SilentFrom.trans (hsu : Silent s u) (h : SilentFrom u r) : SilentFrom s r :=
  fun t ht => hsu.trans (h t ht)

theorem SilentFrom.ite {p : Prop} [Decidable p] {r' : Result} (h : SilentFrom s r)
    (h' : SilentFrom s r') : SilentFrom s (if p then r else r') := by
  split
  · exact h
  · exact h'

theorem SilentFrom.onlyIf {m : String} {p : Prop} [Decidable p] (h : SilentFrom s r) :
    SilentFrom s (onlyIf m p r) := fun t ht => h t (onlyIf_next.1 ht).2

theorem SilentFrom.readPkt {i : Nat} {k : Byte → Result} (h : ∀ b, SilentFrom s (k b)) :
    SilentFrom s (readPkt u i k) := fun t ht => h _ t (readPkt_next.1 ht).2

theorem SilentFrom.readParam {i : Nat} {k : Byte → Result} (h : ∀ b, SilentFrom s (k b)) :
    SilentFrom s (readParam u i k) := .readPkt h

theorem SilentFrom.readSlice {n : Nat} {k : Bytes → Result} (h : ∀ bs, SilentFrom s (k bs)) :
    SilentFrom s (readSlice u n k) := fun t ht => h _ t (readSlice_next.1 ht).2

/-- A write to the packet buffer is silent, so what follows it decides. -/
theorem SilentFrom.writePkt {i : Nat} {vs : Bytes} {k : State → Result}
    (h : ∀ m, SilentFrom { s with pkt := m } (k { s with pkt := m })) :
    SilentFrom s (writePkt s i vs k) := fun t ht => by
  have hk := h _ t (writePkt_next.1 ht).2
  exact (Silent.of_eq rfl rfl).trans hk

theorem SilentFrom.writeParams {i : Nat} {vs : Bytes} {k : State → Result}
    (h : ∀ m, SilentFrom { s with pkt := m } (k { s with pkt := m })) :
    SilentFrom s (writeParams s i vs k) := .writePkt h

theorem silentFrom_commandOk (s : State) : SilentFrom s (commandOk s) := .of_eq rfl rfl

theorem silentFrom_badParam (s : State) : SilentFrom s (badParam s) := .of_eq rfl rfl

theorem silentFrom_badCommand (s : State) : SilentFrom s (badCommand s) := .of_eq rfl rfl

theorem silentFrom_abandon (s : State) : SilentFrom s (.next (abandon s)) := .of_eq rfl rfl

theorem silentFrom_hold (s : State) : SilentFrom s (hold s) := .of_eq rfl rfl

theorem SilentFrom.withParams {n : Nat} (h : SilentFrom s r) : SilentFrom s (withParams n s r) :=
  .ite h (silentFrom_badParam s)

theorem silent_i2cStart (dir : Dir) (reg : Byte) (val : Half) (s : State) :
    Silent s (i2cStart dir reg val s) := .emit_of_eq rfl rfl rfl

/-- A bus transaction begun and waited for. -/
theorem silentFrom_beginTransaction_hold (dir : Dir) (reg : Byte) (val : Half) (s : State) :
    SilentFrom s (beginTransaction dir reg val s hold) :=
  .ite (.refused _) (.trans (silent_i2cStart dir reg val s) (silentFrom_hold _))

end Results

/-! ### Command handlers, 46_command_dispatch.md R259 to R271 -/

section Handlers
variable (s : State)

theorem silentFrom_handleGetNodeId : SilentFrom s (handleGetNodeId s) :=
  .withParams (.writeParams fun _ => silentFrom_commandOk _)

theorem silentFrom_handleGetCommStatus : SilentFrom s (handleGetCommStatus s) :=
  .withParams <| .readParam fun clear => .writeParams fun m => by
    split
    · exact .of_eq rfl rfl
    · exact silentFrom_commandOk _

theorem silentFrom_handleGetIrqPoll : SilentFrom s (handleGetIrqPoll s) :=
  .withParams (.writeParams fun _ => .of_eq rfl rfl)

theorem silent_setOut (ch : Byte) (v : Bool) : Silent s (setOut ch v s) := .emit_of_eq rfl rfl rfl

theorem silentFrom_outputWrite (v : Bool) : SilentFrom s (outputWrite v s) :=
  .readParam fun ch => .readParam fun _ =>
    .ite (silentFrom_badParam s) (.trans (silent_setOut s ch v) (silentFrom_commandOk _))

theorem silentFrom_outputReadBack : SilentFrom s (outputReadBack s) :=
  .readParam fun _ => .ite (silentFrom_badParam s) (.writeParams fun _ => silentFrom_commandOk _)

theorem silentFrom_handleOutput : SilentFrom s (handleOutput s) :=
  .withParams <| .readParam fun sub => by
    cases outputSubOf sub with
    | none => exact silentFrom_badParam s
    | some k =>
      cases k with
      | clear => exact silentFrom_outputWrite s false
      | set => exact silentFrom_outputWrite s true
      | read => exact silentFrom_outputReadBack s

theorem silentFrom_telemetryBegin (reg : Byte) : SilentFrom s (telemetryBegin reg s) :=
  .withParams (silentFrom_beginTransaction_hold _ _ _ _)

theorem silentFrom_telemetryFinish (k : Quantity) : SilentFrom s (telemetryFinish k s) :=
  .writeParams fun _ => silentFrom_commandOk _

theorem silent_persistRatings (v : Byte) (i : Half) : Silent s (persistRatings v i s) := by
  rw [persistRatings_eq]
  exact ⟨rfl, _, rfl, by simp⟩

theorem silentFrom_shuntConfigWrite : SilentFrom s (shuntConfigWrite s) :=
  .readParam fun v => .readParam fun lo => .readParam fun hi => by
    split
    · extract_lets s1
      have hs : Silent s s1 := by
        refine Silent.trans ?_ (silent_persistRatings _ v (pair hi lo))
        exact .of_eq rfl rfl
      exact SilentFrom.trans hs (silentFrom_beginTransaction_hold _ _ _ s1)
    · exact silentFrom_badParam s

theorem silentFrom_handleShuntConfig : SilentFrom s (handleShuntConfig s) :=
  .withParams <| .readParam fun sub => by
    cases shuntSubOf sub with
    | none => exact silentFrom_badParam s
    | some k =>
      cases k with
      | readConfig => exact .writeParams fun _ => silentFrom_commandOk _
      | writeConfig => exact silentFrom_shuntConfigWrite s
      | readCal => exact .writeParams fun _ => silentFrom_commandOk _

theorem silentFrom_dispatch (c : Byte) : SilentFrom s (dispatch c s) := by
  unfold dispatch
  cases commandOf s.cfg c with
  | noOp => exact .withParams (silentFrom_commandOk s)
  | getNodeId => exact silentFrom_handleGetNodeId s
  | getCommStatus => exact silentFrom_handleGetCommStatus s
  | getIrqPoll => exact silentFrom_handleGetIrqPoll s
  | output => exact silentFrom_handleOutput s
  | getVolts | getCurrent | getPower => exact silentFrom_telemetryBegin s _
  | shuntConfig => exact silentFrom_handleShuntConfig s
  | programAddress | enumRequest | unknown => exact silentFrom_badCommand s

theorem silentFrom_resumeHandler : SilentFrom s (resumeHandler s) :=
  .readPkt fun c => by
    cases commandOf s.cfg c with
    | getVolts | getCurrent | getPower => exact silentFrom_telemetryFinish s _
    | shuntConfig => exact silentFrom_commandOk s
    | noOp | getNodeId | getCommStatus | getIrqPoll | output | programAddress | enumRequest
    | unknown => exact .refused _

end Handlers

/-! ### `POLL`, 42_session_fsm.md R173 to R181 -/

section Session
variable (s : State)

theorem silentFrom_sendNotification : SilentFrom s (sendNotification s) :=
  .writePkt fun _ => .of_eq rfl rfl

theorem silentFrom_execPollSStart : SilentFrom s (execPollSStart s) :=
  .onlyIf (.ite (.of_eq rfl rfl) (.ite (silentFrom_sendNotification s) (.next (.refl s))))

theorem silent_crcVerdict (ok : Bool) : Silent s (crcVerdict ok s) := by
  cases ok <;> exact .of_eq rfl rfl

theorem silentFrom_validate8 : SilentFrom s (validate8 s) :=
  .ite (.of_eq rfl rfl) <| .readSlice fun _ => .readPkt fun _ =>
    .next ((Silent.of_eq rfl rfl).trans (silent_crcVerdict ..))

theorem silentFrom_validate16 : SilentFrom s (validate16 s) :=
  .ite (.of_eq rfl rfl) <| .readSlice fun _ => .readPkt fun _ => .readPkt fun _ =>
    .next ((Silent.of_eq rfl rfl).trans (silent_crcVerdict ..))

theorem silentFrom_execPollSPacketReady : SilentFrom s (execPollSPacketReady s) :=
  .onlyIf <| .ite (silentFrom_abandon s) <| .readPkt fun b => by
    cases controlOf s.cfg b with
    | req8 => exact silentFrom_validate8 s
    | req16 => exact silentFrom_validate16 s
    | ack8 | nak8 | ack16 | nak16 | irq16 | other => exact silentFrom_abandon s

theorem silent_acceptAddress (a : Byte) : Silent s (acceptAddress a s) :=
  ⟨rfl, [.storeWrite s.cfg.addrOffset a], rfl, by simp⟩

theorem silent_broadcastAction (c : Byte) : Silent s (broadcastAction c s) := by
  dsimp only [broadcastAction]
  split <;> exact .of_eq rfl rfl

theorem silentFrom_execPollSDecode : SilentFrom s (execPollSDecode s) :=
  .onlyIf <| .readPkt fun a => .readPkt fun c =>
    .ite (.ite (.next (silent_acceptAddress s a)) (silentFrom_abandon s)) <|
      .ite (.next (silent_broadcastAction s c)) <|
        .ite (silentFrom_dispatch s c) (silentFrom_abandon s)

theorem silentFrom_execPollSRespond : SilentFrom s (execPollSRespond s) :=
  .onlyIf (.writePkt fun _ => .of_eq rfl rfl)

theorem silentFrom_execPollSTxStart : SilentFrom s (execPollSTxStart s) :=
  .onlyIf <| .ite
    (.ite (.fault _) <| .readSlice fun _ =>
      .trans (.of_eq rfl rfl) (.writePkt fun _ => .of_eq rfl rfl))
    (.ite (.fault _) <| .readSlice fun _ =>
      .trans (.of_eq rfl rfl) (.writePkt fun _ => .of_eq rfl rfl))

theorem silentFrom_execPollSWaitTx : SilentFrom s (execPollSWaitTx s) :=
  .onlyIf <| by
    split
    · exact .of_eq rfl rfl
    · exact .next (.refl s)

theorem silentFrom_execPollSWaitDrain : SilentFrom s (execPollSWaitDrain s) :=
  .onlyIf <| by
    split
    · exact .next (.emit_of_eq rfl rfl rfl)
    · exact .next (.refl s)

theorem silentFrom_execPollFgI2cWait : SilentFrom s (execPollFgI2cWait s) :=
  .onlyIf <| .trans (silent_emit rfl s) <|
    .ite (.next (.refl _)) (.trans (.of_eq rfl rfl) (silentFrom_resumeHandler _))

theorem silentFrom_execPoll : SilentFrom s (execPoll s) := by
  unfold execPoll
  cases s.fgCont with
  | fgI2cWait => exact silentFrom_execPollFgI2cWait s
  | fgNone =>
    cases s.sessionState with
    | start => exact silentFrom_execPollSStart s
    | packetReady => exact silentFrom_execPollSPacketReady s
    | decode => exact silentFrom_execPollSDecode s
    | respond => exact silentFrom_execPollSRespond s
    | txStart => exact silentFrom_execPollSTxStart s
    | waitTx => exact silentFrom_execPollSWaitTx s
    | waitDrain => exact silentFrom_execPollSWaitDrain s
    | finish => exact .onlyIf (.of_eq rfl rfl)

end Session

/-! ### The receiver, the ticks and the bus engine -/

section Interrupts
variable (s : State)

theorem silent_append (b : Byte) : Silent s (append b s) := by
  rw [append_eq]
  exact .of_eq rfl rfl

theorem silentFrom_execRxByte (b : Byte) : SilentFrom s (execRxByte b s) := by
  unfold execRxByte
  cases s.rxClass b with
  | drop | ignore => exact .onlyIf (.next (.refl s))
  | escaped => exact .onlyIf (.next ((Silent.of_eq rfl rfl).trans (silent_append _ b)))
  | start | endMark | esc => exact .onlyIf (.of_eq rfl rfl)
  | data => exact .onlyIf (.next (silent_append s b))

theorem silent_tickReceiver : Silent s (tickReceiver s) := by
  unfold tickReceiver
  split
  · dsimp only
    split <;> exact .of_eq rfl rfl
  · exact .refl s

theorem silent_tickArbitrator : Silent s (tickArbitrator s) := by
  unfold tickArbitrator
  split
  · exact .of_eq rfl rfl
  · exact .refl s

theorem silent_busStep {a : BusAction} {p : BitVec 4} : Silent s (busStep a p s) :=
  .emit_of_eq rfl rfl rfl

theorem silent_busDone : Silent s (busDone s) := .emit_of_eq rfl rfl rfl

theorem silentFrom_execI2cPh4 (d : Byte) : SilentFrom s (execI2cPh4 d s) :=
  .onlyIf <| by
    cases s.i2cDir with
    | write => exact .next (silent_busDone s)
    | read => exact .next (silent_busStep s)

theorem silentFrom_execI2cEvent (d : Byte) : SilentFrom s (execI2cEvent d s) :=
  .ite
    (by
      split
      case h_1 | h_2 | h_3 | h_4 | h_7 => exact .onlyIf (.next (silent_busStep s))
      case h_5 => exact silentFrom_execI2cPh4 s d
      case h_6 => exact .onlyIf (.next ((Silent.of_eq rfl rfl).trans (silent_busStep _)))
      case h_8 | h_10 => exact .onlyIf (.of_eq rfl rfl)
      case h_9 => exact .onlyIf (.next (silent_busDone s)))
    (.next (.refl s))

end Interrupts

/-! ### The transmitter -/

/-- From `s` to `t` the configuration is kept and the one new output action is a `UartWrite`. -/
def WritesOneByte (s t : State) : Prop :=
  t.cfg = s.cfg ∧ ∃ b, t.trace = s.trace ++ [.uartWrite b]

theorem writesOneByte_emit {s u : State} (b : Byte) (hc : u.cfg = s.cfg) (ht : u.trace = s.trace) :
    WritesOneByte s (emit (.uartWrite b) u) :=
  ⟨hc, b, by rw [emit_trace, ht]⟩

section Transmitter
variable {s t : State}

theorem execTxStartMark_writes (h : execTxStartMark s = .next t) : WritesOneByte s t := by
  obtain ⟨-, ⟨⟩⟩ := onlyIf_next.1 h
  exact writesOneByte_emit _ rfl rfl

theorem execTxData_writes (h : execTxData s = .next t) : WritesOneByte s t := by
  obtain ⟨-, ⟨⟩⟩ := onlyIf_next.1 (readPkt_next.1 (onlyIf_next.1 h).2).2
  exact writesOneByte_emit _ rfl rfl

theorem execTxEsc_writes (h : execTxEsc s = .next t) : WritesOneByte s t := by
  obtain ⟨-, ⟨⟩⟩ := onlyIf_next.1 (readPkt_next.1 (onlyIf_next.1 h).2).2
  exact writesOneByte_emit _ rfl rfl

theorem execTxEscaped_writes (h : execTxEscaped s = .next t) : WritesOneByte s t := by
  obtain ⟨-, ⟨⟩⟩ := readPkt_next.1 (onlyIf_next.1 h).2
  exact writesOneByte_emit _ rfl rfl

theorem execTxEndMark_writes (h : execTxEndMark s = .next t) : WritesOneByte s t := by
  obtain ⟨-, ⟨⟩⟩ := onlyIf_next.1 h
  exact writesOneByte_emit _ rfl rfl

/-- 43_frame_transmitter.md R200: `TX_READY` does nothing while disabled and writes one byte while enabled. -/
theorem execTxReady_next (h : execTxReady s = .next t) :
    (s.txIrqEn = false ∧ t = s) ∨ (s.txIrqEn = true ∧ WritesOneByte s t) := by
  unfold execTxReady at h
  cases hen : s.txIrqEn with
  | false => rw [hen] at h; cases h; exact .inl ⟨rfl, rfl⟩
  | true =>
    rw [if_pos hen] at h
    refine .inr ⟨rfl, ?_⟩
    cases hst : s.txState with
    | idle => rw [hst] at h; exact execTxStartMark_writes h
    | escWait => rw [hst] at h; exact execTxEscaped_writes h
    | done => rw [hst] at h; exact execTxEndMark_writes h
    | sending =>
      rw [hst] at h
      obtain ⟨-, h⟩ := readPkt_next.1 h
      split at h
      · exact execTxEsc_writes h
      · exact execTxData_writes h

end Transmitter

/-! ### The step -/

/-- Every event but `TX_READY` is silent. -/
theorem silentFrom_operations {e : Event} (he : e ≠ .txReady) (s : State) :
    SilentFrom s (execAll e.operations s) := by
  cases e with
  | txReady => exact absurd rfl he
  | rxByte b => rw [Event.operations, execAll_singleton]; exact silentFrom_execRxByte s b
  | i2cEvent d => rw [Event.operations, execAll_singleton]; exact silentFrom_execI2cEvent s d
  | poll => rw [Event.operations, execAll_singleton]; exact silentFrom_execPoll s
  | tick => exact .next ((silent_tickReceiver s).trans (silent_tickArbitrator _))

/-- Where a step can lead: it is silent, or it is an enabled `TX_READY` that writes one byte. -/
theorem step_next_cases {s t : State} (h : step s = .next t) :
    Silent s t ∨ (s.txIrqEn = true ∧ WritesOneByte s t
      ∧ ∃ inp rest, s.script = inp :: rest ∧ inp.event = .txReady) := by
  by_cases hl : s.cfg.Legal
  · cases hs : s.script with
    | nil => rw [step_of_script_nil hl hs] at h; cases h; exact .inl (.refl s)
    | cons inp rest =>
      rw [step_eq_execAll hl hs] at h
      by_cases he : inp.event = .txReady
      · rw [he, Event.operations, execAll_singleton] at h
        rcases execTxReady_next h with ⟨-, rfl⟩ | ⟨hen, hw⟩
        · exact .inl (.of_eq rfl rfl)
        · exact .inr ⟨hen, hw, inp, rest, rfl, he⟩
      · exact .inl (silentFrom_operations he (s.accept inp rest) t h)
  · rw [step_of_not_legal hl] at h; cases h

/-- Settles O60: a silent step adds no `UartWrite`; every other step is a `TX_READY` that adds one and nothing else. -/
theorem stepAppendsItsOutput : Obligations.StepAppendsItsOutput := by
  intro s t h
  rcases step_next_cases h with ⟨hc, l, ht, hl⟩ | ⟨hen, ⟨hc, b, ht⟩, hin⟩
  · exact ⟨hc, l, ht, fun b hb => absurd hb (hl b)⟩
  · refine ⟨hc, [.uartWrite b], ht, fun b' hb' => ?_⟩
    rw [List.mem_singleton.1 hb']
    exact ⟨hen, rfl, hin⟩

end Sys2Proof.Machine
end

