-- ==== Sys2Proof/Proofs/Reception.lean ====
section
/-! ## A ready packet under the handler events (obligation O15)

`s.reception` is the part of the state that 41_frame_receiver.md R160 (d) protects. The transmitter, the bus engine and
the arbitration timer never write it, whatever the state; the receiver and the frame timeout leave it alone because the
packet is ready and no frame is being assembled. -/

namespace Sys2Proof.Machine

/-- The packet buffer and the receive registers, 10_state.md R30 to R34. -/
def State.reception (s : State) : Memory × RxState × Bool × Nat × Nat × Bool :=
  (s.pkt, s.rxState, s.rxEsc, s.rxIdx, s.rxTimeout, s.pktReady)

section Reception
variable {s t u : State}

theorem reception_eq_iff :
    t.reception = s.reception ↔
      t.pkt = s.pkt ∧ t.rxState = s.rxState ∧ t.rxEsc = s.rxEsc ∧ t.rxIdx = s.rxIdx
        ∧ t.rxTimeout = s.rxTimeout ∧ t.pktReady = s.pktReady := by
  simp only [State.reception, Prod.mk.injEq]

/-- A selected row that answers a state with the reception of `s` keeps it. -/
theorem reception_of_onlyIf {m : String} {p : Prop} [Decidable p] (h : onlyIf m p (.next u) = .next t)
    (hu : u.reception = s.reception) : t.reception = s.reception := by
  obtain ⟨-, ⟨⟩⟩ := onlyIf_next.1 h
  exact hu

/-! ### The transmitter, 43_frame_transmitter.md R201 to R205: it reads the buffer and does not write it -/

theorem reception_execTxData (h : execTxData s = .next t) : t.reception = s.reception :=
  reception_of_onlyIf (readPkt_next.1 (onlyIf_next.1 h).2).2 rfl

theorem reception_execTxEsc (h : execTxEsc s = .next t) : t.reception = s.reception :=
  reception_of_onlyIf (readPkt_next.1 (onlyIf_next.1 h).2).2 rfl

theorem reception_execTxEscaped (h : execTxEscaped s = .next t) : t.reception = s.reception := by
  obtain ⟨-, ⟨⟩⟩ := readPkt_next.1 (onlyIf_next.1 h).2
  rfl

theorem reception_execTxReady (h : execTxReady s = .next t) : t.reception = s.reception := by
  unfold execTxReady at h
  split at h
  case isFalse => cases h; rfl
  case isTrue =>
    cases hst : s.txState with
    | idle | done => rw [hst] at h; exact reception_of_onlyIf h rfl
    | escWait => rw [hst] at h; exact reception_execTxEscaped h
    | sending =>
      rw [hst] at h
      obtain ⟨-, hrow⟩ := readPkt_next.1 h
      split at hrow
      · exact reception_execTxEsc hrow
      · exact reception_execTxData hrow

/-! ### The bus engine, 44_i2c_engine.md R218 to R227: each phase writes bus registers only -/

theorem reception_execI2cPh4 {d : Byte} (h : execI2cPh4 d s = .next t) : t.reception = s.reception :=
  reception_of_onlyIf h (by cases s.i2cDir <;> rfl)

theorem reception_execI2cEvent {d : Byte} (h : execI2cEvent d s = .next t) :
    t.reception = s.reception := by
  unfold execI2cEvent at h
  split at h
  case isFalse => cases h; rfl
  case isTrue =>
    split at h
    case h_5 => exact reception_execI2cPh4 h
    all_goals exact reception_of_onlyIf h rfl

/-! ### The ticks, 41_frame_receiver.md R159 and 45_arbitrator.md R245 -/

theorem tickReceiver_of_not_assembling (h : s.rxState ≠ .assembling) : tickReceiver s = s :=
  if_neg h

theorem reception_tickArbitrator (s : State) : (tickArbitrator s).reception = s.reception := by
  unfold tickArbitrator
  split <;> rfl

/-! ### The receiver, 41_frame_receiver.md R151: while a packet is ready every byte is dropped -/

theorem rxClass_of_pktReady (h : s.pktReady = true) (b : Byte) : s.rxClass b = .drop := if_pos h

theorem execRxByte_of_pktReady (h : s.pktReady = true) (b : Byte) : execRxByte b s = .next s := by
  rw [execRxByte, rxClass_of_pktReady h b]
  exact if_pos (rxClass_of_pktReady h b)

/-! ### The events -/

/-- 41_frame_receiver.md R160 (d): with a packet ready and no frame in assembly, only `POLL` can change the reception. -/
theorem reception_operations {e : Event} (hready : s.pktReady = true) (hrx : s.rxState ≠ .assembling)
    (he : e ≠ .poll) (h : execAll e.operations s = .next t) : t.reception = s.reception := by
  cases e with
  | poll => exact absurd rfl he
  | rxByte b =>
    rw [Event.operations, execAll_singleton, exec, execRxByte_of_pktReady hready] at h
    cases h; rfl
  | txReady =>
    rw [Event.operations, execAll_singleton] at h
    exact reception_execTxReady h
  | i2cEvent d =>
    rw [Event.operations, execAll_singleton] at h
    exact reception_execI2cEvent h
  | tick =>
    have ht : t = tickArbitrator (tickReceiver s) := by cases h; rfl
    rw [ht, tickReceiver_of_not_assembling hrx, reception_tickArbitrator]

end Reception

/-- Settles O15: the step is the event's operations on the state that took the input, and taking the input leaves the
reception as it is. -/
theorem readyPacketIsUntouchedByHandlers : Obligations.ReadyPacketIsUntouchedByHandlers := by
  intro s t inp rest hready hfinishing hscript hpoll hstep
  have hl : s.cfg.Legal := by
    by_contra hl
    rw [step_of_not_legal hl] at hstep
    cases hstep
  rw [step_eq_execAll hl hscript] at hstep
  have hrx : (s.accept inp rest).rxState ≠ .assembling := by
    rw [State.accept_rxState, hfinishing]
    decide
  have hkept : t.reception = s.reception :=
    reception_operations (s := s.accept inp rest) hready hrx hpoll hstep
  rw [← hready]
  exact reception_eq_iff.1 hkept

end Sys2Proof.Machine
end

