-- ==== Sys2Proof/Proofs/BadFrames.lean ====
section
/-! ## Frames that are abandoned or answered negatively (obligations O32, O36)

A control byte that is no request variant, whichever row examines it; a command that this node does not honour when
it is addressed to it, whichever row dispatches it. -/

namespace Sys2Proof.Machine

/-! ### Control bytes, 30_encoding.md R95 and R104 -/

theorem controlOf_not_request {c : Cfg} {b : Byte} (h8 : b ≠ c.hdrReq8) (h16 : b ≠ c.hdrReq16) :
    controlOf c b ≠ .req8 ∧ controlOf c b ≠ .req16 := by
  rw [controlOf, if_neg h8, if_neg h16]
  repeat' split
  all_goals decide

section Headers
variable {s : State} (hpoll : s.polls .packetReady) (hidx : 1 ≤ s.rxIdx) (hcap : 0 < s.cfg.cap)
include hpoll hidx hcap

/-- A received control byte of class `k` runs what the row of that class does with it. -/
theorem onHeader_of_controlOf {m : String} {k : Control} (hk : controlOf s.cfg (s.pktByte 0) = k) (r : Result) :
    onHeader m k s r = r := by
  rw [onHeader, onlyIf, if_pos ⟨hpoll, hidx⟩, readPkt, if_pos hcap, onlyIf, if_pos hk]

/-- 60_exceptions.md R282: an acknowledgement variant that is received, not sent, is abandoned. -/
theorem ackRow_received {m : String} {k : Control} (hk : controlOf s.cfg (s.pktByte 0) = k) (h : Byte) :
    ackRow m k h s = .next (abandon s) := by
  have hrespond : ¬ s.polls .respond := fun hr => absurd (hpoll.2.symm.trans hr.2) (by decide)
  rw [ackRow, if_neg hrespond, onHeader_of_controlOf hpoll hidx hcap hk]

/-- 42_session_fsm.md R174: S_PACKET_READY abandons every control byte but the two request variants. -/
theorem execPollSPacketReady_abandons (h8 : s.pktByte 0 ≠ s.cfg.hdrReq8) (h16 : s.pktByte 0 ≠ s.cfg.hdrReq16) :
    execPollSPacketReady s = .next (abandon s) := by
  have hne : s.rxIdx ≠ 0 := by omega
  rw [execPollSPacketReady, onlyIf, if_pos hpoll, if_neg hne, readPkt, if_pos hcap]
  cases hk : controlOf s.cfg (s.pktByte 0) with
  | req8 => exact absurd hk (controlOf_not_request h8 h16).1
  | req16 => exact absurd hk (controlOf_not_request h8 h16).2
  | ack8 | nak8 | ack16 | nak16 | irq16 | other => rfl

/-- 60_exceptions.md R282: the control byte's own row abandons it likewise. -/
theorem exec_controlOf_instr_abandons (h8 : s.pktByte 0 ≠ s.cfg.hdrReq8) (h16 : s.pktByte 0 ≠ s.cfg.hdrReq16) :
    exec ((controlOf s.cfg (s.pktByte 0)).instr (s.pktByte 0)) s = .next (abandon s) := by
  cases hk : controlOf s.cfg (s.pktByte 0) with
  | req8 => exact absurd hk (controlOf_not_request h8 h16).1
  | req16 => exact absurd hk (controlOf_not_request h8 h16).2
  | ack8 | nak8 | ack16 | nak16 => exact ackRow_received hpoll hidx hcap hk _
  | irq16 =>
    have hstart : ¬ s.polls .start := fun hs => absurd (hpoll.2.symm.trans hs.2) (by decide)
    exact (if_neg hstart).trans (onHeader_of_controlOf hpoll hidx hcap hk _)
  | other => exact (onHeader_of_controlOf hpoll hidx hcap hk _).trans (if_pos rfl)

end Headers

theorem exec_poll_of_packetReady {s : State} (hpoll : s.polls .packetReady) :
    exec .poll s = execPollSPacketReady s := by
  simp only [exec, execPoll, hpoll.1, hpoll.2]

/-- Settles O32: POLL runs S_PACKET_READY there, and both it and the control byte's own row abandon the frame. -/
theorem wrongHeaderIsAbandoned : Obligations.WrongHeaderIsAbandoned := by
  rintro s b hl hpoll hidx rfl h8 h16 i hi
  have hcap : 0 < s.cfg.cap := lt_of_lt_of_le (by decide) (legal_five_le_cap hl)
  have hready := execPollSPacketReady_abandons hpoll hidx hcap h8 h16
  simp only [List.mem_cons, List.not_mem_nil, or_false] at hi
  obtain rfl | rfl | rfl := hi
  · exact (exec_poll_of_packetReady hpoll).trans hready
  · exact hready
  · exact exec_controlOf_instr_abandons hpoll hidx hcap h8 h16

/-! ### Commands this node does not honour, 46_command_dispatch.md R257 and R268 -/

theorem commandOf_of_not_mem {c : Cfg} {x : Byte} (h : x ∉ c.commands) : commandOf c x = .unknown := by
  simp only [Cfg.commands, List.mem_cons, List.not_mem_nil, or_false, not_or] at h
  simp [commandOf, h]

/-- The three classes of a command that is bad when addressed to this node: an unknown code (30_encoding.md R105), the
enumeration request and, outside its mode, program-address. -/
theorem commandOf_bad {c : Cfg} {x : Byte} (hl : c.Legal)
    (h : x ∉ c.commands ∨ x = c.cmdEnumRequest ∨ x = c.cmdProgramAddress) :
    commandOf c x = .unknown ∨ commandOf c x = .enumRequest ∨ commandOf c x = .programAddress := by
  obtain ⟨-, -, -, hcodes, -⟩ := hl
  obtain h | rfl | rfl := h
  · exact .inl (commandOf_of_not_mem h)
  · exact .inr (.inl (commandOf_cmdEnumRequest hcodes))
  · exact .inr (.inr (commandOf_cmdProgramAddress hcodes))

section Own
variable {s : State} {x : Byte} (h : s.ownCommand x)
include h

/-- The row of a command runs its unicast arm for a frame addressed to this node. -/
theorem onCommand_addressArms_own {m : String} {k : Command} (hk : commandOf s.cfg x = k)
    (inMode : Byte → Result) (onBroadcast onUnicast : Result) :
    onCommand m k s (addressArms s inMode onBroadcast onUnicast) = onUnicast := by
  obtain ⟨⟨hl, hpoll, -, hx⟩, hmode, hunicast, haddr⟩ := h
  have hcap := legal_five_le_cap hl
  have h2 : 2 < s.cfg.cap := by omega
  have h1 : 1 < s.cfg.cap := by omega
  have hk' : commandOf s.cfg (s.pktByte 2) = k := hx ▸ hk
  have hb : s.pktByte 1 ≠ broadcast := haddr ▸ hunicast
  have hm : ¬ s.addrProgEn = true := by simp [hmode]
  rw [onCommand, onlyIf, if_pos hpoll, readPkt, if_pos h2, onlyIf, if_pos hk', addressArms, readPkt, if_pos h1,
    if_neg hm, if_neg hb, if_pos haddr]

theorem exec_commandOf_instr_bad
    (hk : commandOf s.cfg x = .unknown ∨ commandOf s.cfg x = .enumRequest ∨ commandOf s.cfg x = .programAddress) :
    exec ((commandOf s.cfg x).instr x) s = badCommand s := by
  obtain hk | hk | hk := hk <;> rw [hk]
  · have hx : s.pktByte 2 = x := h.1.2.2.2
    exact (if_pos hx).trans (unicastCommand_own h hk badCommand)
  · exact onCommand_addressArms_own h hk ..
  · exact onCommand_addressArms_own h hk ..

end Own

theorem dispatch_bad {s : State} {x : Byte}
    (hk : commandOf s.cfg x = .unknown ∨ commandOf s.cfg x = .enumRequest ∨ commandOf s.cfg x = .programAddress) :
    dispatch x s = badCommand s := by
  obtain hk | hk | hk := hk <;> simp only [dispatch, hk]

/-- Settles O36: the event, the session state and the address class dispatch the frame, and both the dispatch and the
command's own row answer a bad command. -/
theorem badCommandIsAnsweredNegatively : Obligations.BadCommandIsAnsweredNegatively := by
  intro s x hown hx i hi
  have hk := commandOf_bad hown.1.1 hx
  obtain ⟨hpoll, hdecode, haddr⟩ := decode_own hown
  have hbad : dispatch x s = badCommand s := dispatch_bad hk
  simp only [State.ownRows, List.cons_append, List.nil_append, List.mem_cons, List.not_mem_nil, or_false] at hi
  obtain rfl | rfl | rfl | rfl := hi
  · exact hpoll.trans hbad
  · exact hdecode.trans hbad
  · exact haddr.trans hbad
  · exact exec_commandOf_instr_bad hown hk

end Sys2Proof.Machine
end

