-- ==== Sys2Proof/Proofs/TransmitWire.lean ====
section
/-! ## The wire form of a transmission (obligation O19)

`Transmitting rest s`: an enabled transmitter between two bytes of a packet, with `rest` still to send. Each byte of
`rest` takes as many TX_READY events as its wire form has bytes; the law is the induction over `rest`. -/

namespace Sys2Proof.Machine

/-- As many events as the wire form of a packet's bytes is long: one for each byte, one more for each escaped one. -/
theorem length_flatMap_wireByte (c : Cfg) (packet : Bytes) :
    (packet.flatMap (wireByte c)).length = packet.length + packet.countP fun p => decide (p ≤ c.esc) := by
  induction packet with
  | nil => rfl
  | cons p rest ih =>
    by_cases hp : p ≤ c.esc <;> simp [wireByte, hp, ih] <;> omega

/-- 43_frame_transmitter.md R201: the start marker is on the line. -/
def frameBegun (s : State) : State :=
  emit (.uartWrite s.cfg.frameStart) { s with txState := if s.txRem = 0 then .done else .sending }

/-- 43_frame_transmitter.md R203: the escape byte is on the line and the byte it announces is due. -/
def escAnnounced (s : State) : State :=
  emit (.uartWrite s.cfg.esc) { s with txState := .escWait }

/-- 43_frame_transmitter.md R202 and R204: the next byte of the packet is on the line. -/
def byteSent (s : State) : State := emit (.uartWrite (s.pktByte s.txIdx)) (dataSent s)

/-- 43_frame_transmitter.md R205: the end marker is on the line and the transmitter off. -/
def frameEnded (s : State) : State :=
  emit (.uartWrite s.cfg.frameEnd) { s with txIrqEn := false, txBusy := false, txState := .idle }

section Wire
variable (s : State)

theorem wireTrace_frameBegun : (frameBegun s).wireTrace = s.wireTrace ++ [s.cfg.frameStart] := wireTrace_emit ..

theorem wireTrace_escAnnounced : (escAnnounced s).wireTrace = s.wireTrace ++ [s.cfg.esc] := wireTrace_emit ..

theorem wireTrace_byteSent : (byteSent s).wireTrace = s.wireTrace ++ [s.pktByte s.txIdx] := wireTrace_emit ..

theorem wireTrace_frameEnded : (frameEnded s).wireTrace = s.wireTrace ++ [s.cfg.frameEnd] := wireTrace_emit ..

end Wire

section Rows
variable {s : State} (hen : s.txIrqEn = true)
include hen

theorem exec_txReady_idle (hst : s.txState = .idle) : exec .txReady s = .next (frameBegun s) := by
  simp only [exec, execTxReady, execTxStartMark, onlyIf, frameBegun, hen, hst, and_self, if_true]

theorem exec_txReady_done (hst : s.txState = .done) : exec .txReady s = .next (frameEnded s) := by
  simp only [exec, execTxReady, execTxEndMark, onlyIf, frameEnded, hen, hst, and_self, if_true]

section Data
variable (hidx : s.txIdx < s.cfg.cap)
include hidx

theorem exec_txReady_escWait (hst : s.txState = .escWait) : exec .txReady s = .next (byteSent s) := by
  simp only [exec, execTxReady, execTxEscaped, onlyIf, readPkt, byteSent, hen, hst, hidx, and_self, if_true]

theorem exec_txReady_sending_esc (hst : s.txState = .sending) (hp : s.pktByte s.txIdx ≤ s.cfg.esc) :
    exec .txReady s = .next (escAnnounced s) := by
  rw [exec_txReady_sending hen hst, readPkt, if_pos hidx, if_pos hp]
  simp only [execTxEsc, onlyIf, readPkt, txAction, escAnnounced, hen, hst, hidx, hp, and_self, if_true]

theorem exec_txReady_sending_data (hst : s.txState = .sending) (hp : ¬ s.pktByte s.txIdx ≤ s.cfg.esc) :
    exec .txReady s = .next (byteSent s) := by
  rw [exec_txReady_sending hen hst, readPkt, if_pos hidx, if_neg hp]
  simp only [execTxData, onlyIf, readPkt, txAction, byteSent, hen, hst, hidx, hp, and_self, if_true, if_false]

end Data

end Rows

/-- Transmitter state while a packet is on its way, 43_frame_transmitter.md R200 to R205, before the next byte of
`rest` or, with none left, before the end marker. -/
structure Transmitting (rest : Bytes) (s : State) : Prop where
  enabled : s.txIrqEn = true
  phase : s.txState = if s.txRem = 0 then .done else .sending
  inside : s.txIdx + s.txRem ≤ s.cfg.cap
  bytes : (List.range' s.txIdx s.txRem).map s.pktByte = rest

/-- The start marker leaves the whole packet to send. -/
theorem transmitting_frameBegun {s : State} (hen : s.txIrqEn = true) (hidx : s.txIdx = 0)
    (hcap : s.txRem ≤ s.cfg.cap) :
    Transmitting (s.pktBytes s.txRem) (frameBegun s) where
  enabled := hen
  phase := rfl
  inside := by
    show s.txIdx + s.txRem ≤ s.cfg.cap
    omega
  bytes := by
    show (List.range' s.txIdx s.txRem).map s.pktByte = s.pktBytes s.txRem
    rw [hidx, State.pktBytes, List.range_eq_range']

namespace Transmitting
variable {s : State} {p : Byte} {rest : Bytes}

theorem rem_eq_length (h : Transmitting rest s) : s.txRem = rest.length := by
  simp [← h.bytes]

theorem bytes_cons (h : Transmitting (p :: rest) s) :
    s.pktByte s.txIdx = p ∧ (List.range' (s.txIdx + 1) (s.txRem - 1)).map s.pktByte = rest := by
  have hbytes := h.bytes
  rw [h.rem_eq_length, List.length_cons, List.range'_succ, List.map_cons, List.cons.injEq] at hbytes
  rw [h.rem_eq_length, List.length_cons, Nat.add_sub_cancel]
  exact hbytes

/-- 20_memory.md R62: while a byte is left the index is inside the buffer. -/
theorem txIdx_lt_cap (h : Transmitting (p :: rest) s) : s.txIdx < s.cfg.cap := by
  have hrem := h.rem_eq_length
  have hinside := h.inside
  rw [List.length_cons] at hrem
  omega

theorem sending (h : Transmitting (p :: rest) s) : s.txState = .sending :=
  h.phase.trans (if_neg (by simp [h.rem_eq_length]))

/-- A byte sent without announcement leaves the rest to send. -/
theorem byteSent (h : Transmitting (p :: rest) s) : Transmitting rest (byteSent s) where
  enabled := h.enabled
  phase := rfl
  inside := by
    have hrem := h.rem_eq_length
    have hinside := h.inside
    rw [List.length_cons] at hrem
    show s.txIdx + 1 + (s.txRem - 1) ≤ s.cfg.cap
    omega
  bytes := h.bytes_cons.2

/-- So does an announced one: the announcement changes the transmit state only, and sending sets it anew. -/
theorem byteSent_escAnnounced (h : Transmitting (p :: rest) s) :
    Transmitting rest (Machine.byteSent (escAnnounced s)) where
  enabled := h.byteSent.enabled
  phase := rfl
  inside := h.byteSent.inside
  bytes := h.byteSent.bytes

/-- One byte of the packet: its wire form, in as many events. -/
theorem execAll_byte (h : Transmitting (p :: rest) s) :
    ∃ t, execAll (List.replicate (wireByte s.cfg p).length .txReady) s = .next t ∧ Transmitting rest t
      ∧ t.cfg = s.cfg ∧ t.wireTrace = s.wireTrace ++ wireByte s.cfg p := by
  have hidx := h.txIdx_lt_cap
  obtain ⟨rfl, -⟩ := h.bytes_cons
  by_cases hp : s.pktByte s.txIdx ≤ s.cfg.esc
  · have hesc := exec_txReady_sending_esc h.enabled hidx h.sending hp
    have hbyte := exec_txReady_escWait (s := escAnnounced s) h.enabled hidx rfl
    rw [wireByte, if_pos hp]
    refine ⟨_, (execAll_cons_next hesc).trans (execAll_cons_next hbyte), h.byteSent_escAnnounced, rfl, ?_⟩
    rw [wireTrace_byteSent, wireTrace_escAnnounced, List.append_assoc]
    rfl
  · have hbyte := exec_txReady_sending_data h.enabled hidx h.sending hp
    rw [wireByte, if_neg hp]
    exact ⟨_, execAll_cons_next hbyte, h.byteSent, rfl, wireTrace_byteSent s⟩

/-- The rest of a packet and the end marker: the law of 43_frame_transmitter.md R206 after the start marker. -/
theorem execAll_rest (h : Transmitting rest s) :
    ∃ t, execAll (List.replicate ((rest.flatMap (wireByte s.cfg)).length + 1) .txReady) s = .next t
      ∧ t.wireTrace = s.wireTrace ++ (rest.flatMap (wireByte s.cfg) ++ [s.cfg.frameEnd])
      ∧ t.txIrqEn = false ∧ t.txBusy = false ∧ t.txState = .idle := by
  induction rest generalizing s with
  | nil =>
    have hst : s.txState = .done := h.phase.trans (if_pos h.rem_eq_length)
    exact ⟨_, execAll_cons_next (exec_txReady_done h.enabled hst), wireTrace_frameEnded s, rfl, rfl, rfl⟩
  | cons p rest ih =>
    obtain ⟨u, hbyte, hu, hcfg, hwire⟩ := h.execAll_byte
    obtain ⟨t, hrest, htrace, hend⟩ := ih hu
    rw [hcfg] at hrest htrace
    refine ⟨t, ?_, ?_, hend⟩
    · rw [List.flatMap_cons, List.length_append, Nat.add_assoc, List.replicate_add, execAll_append hbyte]
      exact hrest
    · rw [htrace, hwire, List.flatMap_cons, List.append_assoc, List.append_assoc]

end Transmitting

/-- Settles O19: the start marker, then the packet's bytes and the end marker, one event for each byte of the wire
form. -/
theorem armedTransmitterSendsTheWireForm : Obligations.ArmedTransmitterSendsTheWireForm := by
  rintro s _ hen hidle hidx - hcap rfl
  obtain ⟨t, hrest, hwire, hend⟩ := (transmitting_frameBegun hen hidx hcap).execAll_rest
  have hcount : 2 + (s.pktBytes s.txRem).length + (s.pktBytes s.txRem).countP (fun p => decide (p ≤ s.cfg.esc))
      = ((s.pktBytes s.txRem).flatMap (wireByte s.cfg)).length + 1 + 1 := by
    rw [length_flatMap_wireByte]
    omega
  refine ⟨t, ?_, ?_, hend⟩
  · rw [hcount, List.replicate_succ, execAll_cons_next (exec_txReady_idle hen hidle)]
    exact hrest
  · rw [hwire, wireTrace_frameBegun, List.append_assoc]
    rfl

end Sys2Proof.Machine
end

