-- ==== Sys2Proof/Proofs/ReceiveWire.lean ====
section
/-! ## The receiver inverts the wire form (obligation O14)

`Assembling c n esc got s`: the receiver is inside a frame and has `got` in the buffer. `Presents run w n`: the
instructions `run` deliver the bytes `w`, with fewer than `n` receive ticks among them. The law is the induction over
the packet bytes still to come, each of them one or two bytes on the wire with ticks before them. -/

namespace Sys2Proof.Machine

/-! ### What RX_BYTE does for each class of byte, 41_frame_receiver.md R150 to R157 -/

section Rows
variable {s : State} {b : Byte}

theorem exec_rxByte_escaped (h : s.rxClass b = .escaped) :
    exec (.rxByte b) s = .next (append b { s with rxEsc := false }) := by
  simp only [exec, execRxByte, execRxEscaped, onlyIf, h, if_true]

theorem exec_rxByte_start (h : s.rxClass s.cfg.frameStart = .start) :
    exec (.rxByte s.cfg.frameStart) s = .next { s with
      rxIdx := 0
      rxEsc := false
      rxTimeout := s.cfg.rxTimeoutTicks
      rxState := .assembling } := by
  simp only [exec, execRxByte, execRxStart, onlyIf, h, if_true]

theorem exec_rxByte_endMark (h : s.rxClass s.cfg.frameEnd = .endMark) :
    exec (.rxByte s.cfg.frameEnd) s = .next { s with rxState := .finishing, pktReady := true } := by
  simp only [exec, execRxByte, execRxEnd, onlyIf, h, if_true]

theorem exec_rxByte_esc (h : s.rxClass s.cfg.esc = .esc) :
    exec (.rxByte s.cfg.esc) s = .next { s with rxEsc := true } := by
  simp only [exec, execRxByte, execRxEsc, onlyIf, h, if_true]

theorem exec_rxByte_data (h : s.rxClass b = .data) : exec (.rxByte b) s = .next (append b s) := by
  simp only [exec, execRxByte, execRxData, onlyIf, h, if_true]

/-- 30_encoding.md R91 for a start marker: only a ready packet or a pending escape stands before it. -/
theorem rxClass_frameStart (hready : s.pktReady = false) (hesc : ¬ (s.rxState = .assembling ∧ s.rxEsc = true)) :
    s.rxClass s.cfg.frameStart = .start := by
  simp only [State.rxClass, Sys2Proof.rxClass, hready, hesc, Bool.false_eq_true, if_false, if_true]

end Rows

/-! ### The buffer under an append -/

theorem pktBytes_write_end (s : State) (n : Nat) (b : Byte) :
    (s.putPkt n b).pktBytes (n + 1) = s.pktBytes n ++ [b] := by
  have hbefore : ∀ i ∈ List.range n, (s.putPkt n b).pktByte i = s.pktByte i := fun i hi =>
    Memory.read_write_ne _ _ _ (List.mem_range.1 hi).ne
  have hend : (s.putPkt n b).pktByte n = b := Memory.read_write_self ..
  rw [State.pktBytes, List.range_succ, List.map_append, List.map_congr_left hbefore, List.map_singleton, hend]
  rfl

/-- 41_frame_receiver.md R158 while capacity remains. -/
theorem append_of_lt {s : State} (h : s.rxIdx < s.cfg.cap) (b : Byte) :
    append b s = { s.putPkt s.rxIdx b with rxIdx := s.rxIdx + 1 } := by
  rw [append, if_pos h, if_pos h.le]

theorem append_rxTimeout (b : Byte) (s : State) : (append b s).rxTimeout = s.rxTimeout := by
  rw [append_eq]

/-! ### A frame in assembly -/

/-- 00_scope.md R7 (a): the three control bytes of a frame are distinct. -/
theorem legal_marks_distinct {c : Cfg} (hl : c.Legal) :
    c.frameStart ≠ c.frameEnd ∧ c.frameStart ≠ c.esc ∧ c.frameEnd ≠ c.esc := by
  simpa [and_assoc] using hl.1

/-- The receiver of configuration `c` is inside a frame: `got` is in the buffer, `esc` is the escape-pending flag, `n`
the count of timeouts so far. -/
structure Assembling (c : Cfg) (n : Byte) (esc : Bool) (got : Bytes) (s : State) : Prop where
  cfg : s.cfg = c
  notReady : s.pktReady = false
  rxState : s.rxState = .assembling
  rxEsc : s.rxEsc = esc
  rxIdx : s.rxIdx = got.length
  bytes : s.pktBytes got.length = got
  timeouts : s.timeoutCount = n

namespace Assembling
variable {c : Cfg} {n : Byte} {e : Bool} {got : Bytes} {s : State}

theorem setEsc (h : Assembling c n e got s) (e' : Bool) : Assembling c n e' got { s with rxEsc := e' } :=
  { h with rxEsc := rfl }

theorem setTimeout (h : Assembling c n e got s) (k : Nat) : Assembling c n e got { s with rxTimeout := k } :=
  { h with }

theorem append (h : Assembling c n e got s) (hroom : got.length < c.cap) (b : Byte) :
    Assembling c n e (got ++ [b]) (append b s) := by
  obtain rfl := h.cfg
  rw [append_of_lt (h.rxIdx ▸ hroom)]
  exact {
    cfg := rfl
    notReady := h.notReady
    rxState := h.rxState
    rxEsc := h.rxEsc
    rxIdx := by simp [h.rxIdx]
    bytes := by
      rw [List.length_append, List.length_singleton, h.rxIdx]
      exact (pktBytes_write_end s got.length b).trans (congrArg (· ++ [b]) h.bytes)
    timeouts := h.timeouts }

theorem rxClass_eq (h : Assembling c n false got s) (b : Byte) :
    s.rxClass b = if b = c.frameStart then .start else if b = c.frameEnd then .endMark
      else if b = c.esc then .esc else .data := by
  obtain rfl := h.cfg
  simp [State.rxClass, Sys2Proof.rxClass, h.notReady, h.rxState, h.rxEsc]

/-- A byte above ESC is none of the markers (00_scope.md R7 (b)). -/
theorem exec_data (h : Assembling c n false got s) (hl : c.Legal) {b : Byte} (hb : ¬ b ≤ c.esc) :
    exec (.rxByte b) s = .next (Machine.append b s) := by
  obtain ⟨-, ⟨hstart, hend⟩, -⟩ := hl
  have hne {m : Byte} (hm : m ≤ c.esc) : b ≠ m := fun hbm => hb (hbm ▸ hm)
  refine exec_rxByte_data ?_
  rw [h.rxClass_eq, if_neg (hne hstart), if_neg (hne hend), if_neg (hne (BitVec.le_refl _))]

theorem exec_esc (h : Assembling c n false got s) (hl : c.Legal) :
    exec (.rxByte c.esc) s = .next { s with rxEsc := true } := by
  have hclass : s.rxClass c.esc = .esc := by
    obtain ⟨-, hstart, hend⟩ := legal_marks_distinct hl
    rw [h.rxClass_eq, if_neg hstart.symm, if_neg hend.symm, if_pos rfl]
  obtain rfl := h.cfg
  exact exec_rxByte_esc hclass

theorem exec_endMark (h : Assembling c n false got s) (hl : c.Legal) :
    exec (.rxByte c.frameEnd) s = .next { s with rxState := .finishing, pktReady := true } := by
  have hclass : s.rxClass c.frameEnd = .endMark := by
    obtain ⟨hstart, -⟩ := legal_marks_distinct hl
    rw [h.rxClass_eq, if_neg hstart.symm, if_pos rfl]
  obtain rfl := h.cfg
  exact exec_rxByte_endMark hclass

theorem exec_escaped (h : Assembling c n true got s) (b : Byte) :
    exec (.rxByte b) s = .next (Machine.append b { s with rxEsc := false }) := by
  refine exec_rxByte_escaped ?_
  simp [State.rxClass, Sys2Proof.rxClass, h.notReady, h.rxState, h.rxEsc]

/-- 41_frame_receiver.md R159: a tick that is not the last of the frame timeout only counts. -/
theorem exec_tickRx (h : Assembling c n e got s) (hmore : 1 < s.rxTimeout) :
    exec .tickRx s = .next { s with rxTimeout := s.rxTimeout - 1 } := by
  have hne : s.rxTimeout - 1 ≠ 0 := by omega
  simp only [exec, execTickRx, tickReceiver, h.rxState, if_true, if_neg hne]

end Assembling

/-! ### Runs of bytes and receive ticks -/

/-- `run` delivers the bytes `w` one after another, with fewer than `n` receive ticks anywhere among them. -/
def Presents (run : List Instr) (w : Bytes) (n : Nat) : Prop :=
  run.filter (fun i => decide (i ≠ .tickRx)) = w.map .rxByte ∧ run.count .tickRx < n

/-- The first instruction of a run that still has a byte to deliver is a tick or that byte. -/
theorem Presents.cases_cons {run : List Instr} {b : Byte} {w : Bytes} {n : Nat} (h : Presents run (b :: w) n) :
    (∃ rest, run = .tickRx :: rest ∧ 1 < n ∧ Presents rest (b :: w) (n - 1))
      ∨ ∃ rest, run = .rxByte b :: rest ∧ Presents rest w n := by
  obtain ⟨hbytes, hticks⟩ := h
  cases run with
  | nil => cases hbytes
  | cons i rest =>
    by_cases hi : i = .tickRx
    · subst hi
      rw [List.count_cons_self] at hticks
      exact .inl ⟨rest, rfl, by omega, by simpa using hbytes, by omega⟩
    · rw [List.filter_cons_of_pos (by simpa using hi), List.map_cons, List.cons.injEq] at hbytes
      obtain ⟨rfl, hrest⟩ := hbytes
      rw [List.count_cons_of_ne hi] at hticks
      exact .inr ⟨rest, rfl, hrest, hticks⟩

/-- With no byte left to deliver there are only ticks, and they do nothing outside a frame. -/
theorem execAll_of_presents_nil {run : List Instr} {n : Nat} {s : State} (h : Presents run [] n)
    (hs : s.rxState ≠ .assembling) : execAll run s = .next s := by
  obtain ⟨hbytes, -⟩ := h
  induction run with
  | nil => rfl
  | cons i rest ih =>
    have hi : i = .tickRx ∧ rest.filter (fun i => decide (i ≠ .tickRx)) = [] := by
      simpa using hbytes
    obtain ⟨rfl, hrest⟩ := hi
    have htick : exec .tickRx s = .next s := congrArg _ (tickReceiver_of_not_assembling hs)
    rw [execAll_cons_next htick, ih hrest]

/-! ### The law -/

/-- From `s`, `run` ends with `packet` latched and the count of timeouts at `n`. -/
def Delivers (n : Byte) (packet : Bytes) (run : List Instr) (s : State) : Prop :=
  ∃ t, execAll run s = .next t ∧ t.pktReady = true ∧ t.rxIdx = packet.length
    ∧ t.pktBytes packet.length = packet ∧ t.timeoutCount = n

theorem Delivers.cons {n : Byte} {packet : Bytes} {run : List Instr} {i : Instr} {s t : State}
    (hi : exec i s = .next t) (h : Delivers n packet run t) : Delivers n packet (i :: run) s := by
  rw [Delivers, execAll_cons_next hi]
  exact h

section Frame
variable {c : Cfg} {n : Byte} {e : Bool} {got packet : Bytes}

/-- The ticks before a byte leave the frame in assembly and the timeout above the number of ticks still to come: it is
enough to look at the byte. -/
theorem delivers_of_next_byte {b : Byte} {w : Bytes} {run : List Instr} {s : State} (h : Assembling c n e got s)
    (hrun : Presents run (b :: w) s.rxTimeout)
    (hbyte : ∀ u rest, Assembling c n e got u → Presents rest w u.rxTimeout →
      Delivers n packet (.rxByte b :: rest) u) :
    Delivers n packet run s := by
  induction run generalizing s with
  | nil => cases hrun.1
  | cons i run ih =>
    obtain ⟨rest, hcons, hmore, hrest⟩ | ⟨rest, hcons, hrest⟩ := hrun.cases_cons
    · obtain ⟨rfl, rfl⟩ := List.cons.inj hcons
      exact .cons (h.exec_tickRx hmore) (ih (h.setTimeout _) hrest)
    · rw [hcons]
      exact hbyte s rest h hrest

/-- The rest of a packet and the end marker, after what is already in the buffer. -/
theorem delivers_rest (hl : c.Legal) (rest : Bytes) {run : List Instr} {s : State} (h : Assembling c n false got s)
    (hroom : (got ++ rest).length ≤ c.cap)
    (hrun : Presents run (rest.flatMap (wireByte c) ++ [c.frameEnd]) s.rxTimeout) :
    Delivers n (got ++ rest) run s := by
  induction rest generalizing got run s with
  | nil =>
    rw [List.append_nil]
    refine delivers_of_next_byte h hrun fun u ticks hu hticks => .cons (hu.exec_endMark hl) ?_
    have hdone : RxState.finishing ≠ .assembling := by decide
    exact ⟨_, execAll_of_presents_nil hticks hdone, rfl, hu.rxIdx, hu.bytes, hu.timeouts⟩
  | cons p rest ih =>
    have hgot : got.length < c.cap := by
      rw [List.length_append, List.length_cons] at hroom
      omega
    rw [List.append_cons] at hroom ⊢
    rw [List.flatMap_cons, List.append_assoc] at hrun
    by_cases hp : p ≤ c.esc
    · rw [wireByte, if_pos hp] at hrun
      refine delivers_of_next_byte h hrun fun u run' hu hrun' => .cons (hu.exec_esc hl) ?_
      refine delivers_of_next_byte (hu.setEsc true) hrun' fun v run'' hv hrun'' => .cons (hv.exec_escaped p) ?_
      exact ih ((hv.setEsc false).append hgot p) hroom (by rwa [append_rxTimeout])
    · rw [wireByte, if_neg hp] at hrun
      refine delivers_of_next_byte h hrun fun u run' hu hrun' => .cons (hu.exec_data hl hp) ?_
      exact ih (hu.append hgot p) hroom (by rwa [append_rxTimeout])

end Frame

/-- Settles O14: the start marker begins an empty frame, and the rest of the wire form fills it with the packet. -/
theorem receiverInvertsTheWireForm : Obligations.ReceiverInvertsTheWireForm := by
  intro s packet run hl hready hesc hroom hwire hticks
  refine Delivers.cons (exec_rxByte_start (rxClass_frameStart hready hesc)) ?_
  have hrest : Presents run (packet.flatMap (wireByte s.cfg) ++ [s.cfg.frameEnd]) s.cfg.rxTimeoutTicks :=
    ⟨by simpa [wireFrame] using hwire, hticks⟩
  exact delivers_rest (got := []) hl packet ⟨rfl, hready, rfl, rfl, rfl, rfl, rfl⟩ hroom hrest

end Sys2Proof.Machine
end

