-- ==== Sys2Proof/Proofs/CrcEngines.lean ====
section
/-! PROOFS. The two CRC engines (40_crc.md R131 to R134): the byte step as an iteration of one shift, and the
engines as folds of the byte step. -/

namespace Sys2Proof.Machine

section Shift
variable {w : Nat} (poly crc : BitVec w)

/-- The model tests the sign bit, R131 the bit `W - 1`. -/
theorem crcShift_msbFirst :
    crcShift .msbFirst poly crc = if crc.getLsbD (w - 1) = true then (crc <<< 1) ^^^ poly else crc <<< 1 := by
  rw [crcShift, BitVec.msb_eq_getLsbD_last]

theorem crcShift_lsbFirst :
    crcShift .lsbFirst poly crc = if crc.getLsbD 0 = true then (crc >>> 1) ^^^ poly else crc >>> 1 := rfl

theorem crcShifts_eq_iterate (dir : CrcDir) (n : Nat) : crcShifts dir poly n crc = (crcShift dir poly)^[n] crc := by
  induction n generalizing crc with
  | zero => rfl
  | succ n ih => rw [crcShifts, ih, Function.iterate_succ_apply]

theorem crcByte_eq_iterate (dir : CrcDir) (b : Byte) :
    crcByte dir poly crc b = (crcShift dir poly)^[8] (crcEnter dir crc b) :=
  crcShifts_eq_iterate poly _ dir 8

end Shift

/-- R133 with R22: the CRC-8 engine writes its register and nothing else. -/
theorem exec_crc8 (buf : Bytes) (s : State) :
    exec (.crc8 buf) s = .next { s with crc8Reg := crc8 s.cfg buf } := rfl

/-- R134 with R22: the CRC-16 engine writes its register and nothing else. -/
theorem exec_crc16 (seed : Half) (buf : Bytes) (s : State) :
    exec (.crc16 seed buf) s = .next { s with crc16Reg := crc16 s.cfg seed buf } := rfl

/-- Settles O51: the byte step iterates the shift of its direction, and each engine folds the byte step. -/
theorem crcEngines : Obligations.CrcEngines := by
  refine ⟨fun w poly crc b _ => ⟨?msb, ?lsb⟩, fun s seed buf => ⟨exec_crc8 buf s, exec_crc16 seed buf s⟩⟩
  case msb => rw [crcByte_eq_iterate, funext (crcShift_msbFirst poly), crcEnter]
  case lsb => rw [crcByte_eq_iterate, funext (crcShift_lsbFirst poly), crcEnter]

end Sys2Proof.Machine
end

/-! ## The rows of the frame receiver and the halves of the tick (obligations O7 to O13)

Each row of 41_frame_receiver.md R151 to R157 is settled in two parts: the class that the ordered tests of R150 give
the byte, and what `RX_BYTE` does for that class. `forall_row_of_rxClass` then carries the answer over to the row. -/

namespace Sys2Proof.Machine

section Receiver
variable {s : State} {b : Byte}

/-! ### The class of a byte, 30_encoding.md R91 -/

theorem rxClass_of_escape_pending (hready : s.pktReady = false) (hst : s.rxState = .assembling)
    (hesc : s.rxEsc = true) (b : Byte) : s.rxClass b = .escaped := by
  simp only [State.rxClass, Sys2Proof.rxClass, hready, hst, hesc, Bool.false_eq_true, and_self, if_true, if_false]

theorem rxClass_outside_frame (hready : s.pktReady = false) (hst : s.rxState ≠ .assembling)
    (hb : b ≠ s.cfg.frameStart) : s.rxClass b = .ignore := by
  simp only [State.rxClass, Sys2Proof.rxClass, hready, hst, hb, Bool.false_eq_true, false_and, ne_eq,
    not_false_eq_true, if_true, if_false]

/-- A receiver that is inside a frame has assembled what its buffer holds below the index. -/
theorem assembling_self (hready : s.pktReady = false) (hst : s.rxState = .assembling) (hesc : s.rxEsc = false) :
    Assembling s.cfg s.timeoutCount false (s.pktBytes s.rxIdx) s := by
  have hlen : (s.pktBytes s.rxIdx).length = s.rxIdx := by simp [State.pktBytes]
  exact ⟨rfl, hready, hst, hesc, hlen.symm, congrArg s.pktBytes hlen, rfl⟩

theorem rxClass_frameEnd (hready : s.pktReady = false) (hst : s.rxState = .assembling) (hesc : s.rxEsc = false)
    (hstart : s.cfg.frameEnd ≠ s.cfg.frameStart) : s.rxClass s.cfg.frameEnd = .endMark := by
  rw [(assembling_self hready hst hesc).rxClass_eq, if_neg hstart, if_pos rfl]

theorem rxClass_esc (hready : s.pktReady = false) (hst : s.rxState = .assembling) (hesc : s.rxEsc = false)
    (hstart : s.cfg.esc ≠ s.cfg.frameStart) (hend : s.cfg.esc ≠ s.cfg.frameEnd) : s.rxClass s.cfg.esc = .esc := by
  rw [(assembling_self hready hst hesc).rxClass_eq, if_neg hstart, if_neg hend, if_pos rfl]

theorem rxClass_data (hready : s.pktReady = false) (hst : s.rxState = .assembling) (hesc : s.rxEsc = false)
    (hstart : b ≠ s.cfg.frameStart) (hend : b ≠ s.cfg.frameEnd) (hb : b ≠ s.cfg.esc) : s.rxClass b = .data := by
  rw [(assembling_self hready hst hesc).rxClass_eq, if_neg hstart, if_neg hend, if_neg hb]

/-! ### The row of a class answers what `RX_BYTE` answers -/

theorem exec_rxByte_drop (h : s.pktReady = true) : exec (.rxByte b) s = .next s := execRxByte_of_pktReady h b

theorem exec_rxByte_ignore (h : s.rxClass b = .ignore) : exec (.rxByte b) s = .next s := by
  simp only [exec, execRxByte, execRxIgnore, onlyIf, h, if_true]

theorem forall_row_of_rxClass {k : RxClass} {r : Result} (hclass : s.rxClass b = k)
    (hbyte : exec (.rxByte b) s = r) : ∀ i ∈ [k.instr b, .rxByte b], exec i s = r := by
  have hrow : exec (k.instr b) s = r := by rw [← hclass, exec_rxClass_instr, hbyte]
  simpa using And.intro hrow hbyte

/-! ### `Append`, 41_frame_receiver.md R158 -/

theorem append_trace (b : Byte) (s : State) : (append b s).trace = s.trace := by
  rw [append_eq]

theorem append_pkt_stored (h : s.rxIdx < s.cfg.cap) (b : Byte) :
    Stored .pkt s.pkt (append b s).pkt s.rxIdx [b] := by
  rw [append_of_lt h]
  exact Memory.write_stored ..

theorem append_pkt_of_full (h : s.cfg.cap ≤ s.rxIdx) (b : Byte) : (append b s).pkt = s.pkt := by
  rw [append_eq]
  exact if_neg h.not_gt

/-- An append writes the buffer and the index and nothing else. -/
theorem append_eq_update (b : Byte) (s : State) :
    append b s = { s with
      pkt := (append b s).pkt
      rxIdx := if s.rxIdx ≤ s.cfg.cap then s.rxIdx + 1 else s.rxIdx } := by
  rw [append_eq]

/-! ### `RX_BYTE` as a whole, 41_frame_receiver.md R150 -/

theorem exec_rxByte_eq_ite (s : State) (b : Byte) :
    exec (.rxByte b) s =
      if s.pktReady = true then exec (.rxDrop b) s
      else if s.rxState = .assembling ∧ s.rxEsc = true then exec (.rxEscaped b) s
      else if b = s.cfg.frameStart then exec .rxStart s
      else if s.rxState ≠ .assembling then exec (.rxIgnore b) s
      else if b = s.cfg.frameEnd then exec .rxEnd s
      else if b = s.cfg.esc then exec .rxEsc s
      else exec (.rxData b) s := by
  rw [← exec_rxClass_instr, State.rxClass, Sys2Proof.rxClass]
  split_ifs <;> rfl

/-- Along the ordered tests: whichever is the first to hold, the row it selects answers a next state silently. -/
theorem exec_rxByte_total (s : State) (b : Byte) : ∃ t, exec (.rxByte b) s = .next t ∧ t.trace = s.trace := by
  by_cases hready : s.pktReady = true
  · exact ⟨_, exec_rxByte_drop hready, rfl⟩
  rw [Bool.not_eq_true] at hready
  by_cases hpending : s.rxState = .assembling ∧ s.rxEsc = true
  · obtain ⟨hst, hesc⟩ := hpending
    exact ⟨_, exec_rxByte_escaped (rxClass_of_escape_pending hready hst hesc b), append_trace ..⟩
  by_cases hstart : b = s.cfg.frameStart
  · rw [hstart]
    exact ⟨_, exec_rxByte_start (rxClass_frameStart hready hpending), rfl⟩
  by_cases hst : s.rxState = .assembling
  case neg => exact ⟨_, exec_rxByte_ignore (rxClass_outside_frame hready hst hstart), rfl⟩
  have hesc : s.rxEsc = false := Bool.eq_false_iff.2 fun hesc => hpending ⟨hst, hesc⟩
  by_cases hend : b = s.cfg.frameEnd
  · rw [hend] at hstart ⊢
    exact ⟨_, exec_rxByte_endMark (rxClass_frameEnd hready hst hesc hstart), rfl⟩
  by_cases hb : b = s.cfg.esc
  · rw [hb] at hstart hend ⊢
    exact ⟨_, exec_rxByte_esc (rxClass_esc hready hst hesc hstart hend), rfl⟩
  · exact ⟨_, exec_rxByte_data (rxClass_data hready hst hesc hstart hend hb), append_trace ..⟩

end Receiver

/-! ### The halves of `TICK`, 41_frame_receiver.md R159 and 45_arbitrator.md R245 -/

section Tick
variable {s : State}

theorem tickReceiver_of_last_tick (hst : s.rxState = .assembling) (h : s.rxTimeout = 1) :
    tickReceiver s = { s with rxTimeout := 0, rxState := .idle, timeoutCount := s.timeoutCount + 1 } := by
  simp only [tickReceiver, countTimeout, hst, h, Nat.sub_self, if_true]

theorem tickReceiver_of_ticks_left (hst : s.rxState = .assembling) (h : 2 ≤ s.rxTimeout) :
    tickReceiver s = { s with rxTimeout := s.rxTimeout - 1 } := by
  have hne : s.rxTimeout - 1 ≠ 0 := by omega
  simp only [tickReceiver, hst, if_true, if_neg hne]

/-- The arbitration half in one record: a timer at 0 stays there. -/
theorem tickArbitrator_eq (s : State) :
    tickArbitrator s = { s with irqTimer := if 0 < s.irqTimer then s.irqTimer - 1 else 0 } := by
  unfold tickArbitrator
  by_cases h : 0 < s.irqTimer
  · rw [if_pos h, if_pos h]
  · have hzero : s.irqTimer = 0 := by bv_omega
    rw [if_neg h, if_neg h, ← hzero]

/-- The receive half neither reads nor writes the arbitration timer. -/
theorem tickReceiver_with_irqTimer (s : State) (n : BitVec 5) :
    tickReceiver { s with irqTimer := n } = { tickReceiver s with irqTimer := n } := by
  unfold tickReceiver countTimeout
  by_cases hst : s.rxState = .assembling
  case neg => rw [if_neg hst, if_neg hst]
  by_cases hlast : s.rxTimeout - 1 = 0 <;> simp only [hst, hlast, if_true, if_false]

theorem tickReceiver_irqTimer (s : State) : (tickReceiver s).irqTimer = s.irqTimer :=
  (congrArg State.irqTimer (tickReceiver_with_irqTimer s s.irqTimer) :)

theorem tickArbitrator_tickReceiver (s : State) :
    tickArbitrator (tickReceiver s) = tickReceiver (tickArbitrator s) := by
  rw [tickArbitrator_eq (tickReceiver s), tickReceiver_irqTimer]
  exact (tickReceiver_with_irqTimer s _).symm.trans (congrArg tickReceiver (tickArbitrator_eq s).symm)

end Tick

/-! ### The obligations -/

/-- Settles O7: the class of a byte is the first test that holds, and the rows are total. -/
theorem receivedByteRunsTheFirstMatchingRow : Obligations.ReceivedByteRunsTheFirstMatchingRow :=
  fun s b => ⟨exec_rxByte_eq_ite s b, exec_rxByte_total s b⟩

/-- Settles O8. -/
theorem droppedAndIgnoredBytesChangeNothing : Obligations.DroppedAndIgnoredBytesChangeNothing := by
  refine fun s b => ⟨fun hready => ?dropped, fun hready hb hst => ?ignored⟩
  case dropped => exact forall_row_of_rxClass (rxClass_of_pktReady hready b) (exec_rxByte_drop hready)
  case ignored =>
    have hout : s.rxState ≠ .assembling := by rcases hst with hst | hst <;> rw [hst] <;> decide
    have hclass := rxClass_outside_frame hready hout hb
    exact forall_row_of_rxClass hclass (exec_rxByte_ignore hclass)

/-- Settles O9. -/
theorem startMarkerBeginsAFrame : Obligations.StartMarkerBeginsAFrame := by
  intro s hready hpending
  have hclass := rxClass_frameStart hready hpending
  exact forall_row_of_rxClass hclass (exec_rxByte_start hclass)

/-- Settles O10: a legal configuration keeps the two markers apart from each other and from the start marker. -/
theorem endMarkerAndEscapeByte : Obligations.EndMarkerAndEscapeByte := by
  intro s hl hready hst hesc
  obtain ⟨hstartEnd, hstartEsc, hendEsc⟩ := legal_marks_distinct hl
  have hend := rxClass_frameEnd hready hst hesc hstartEnd.symm
  have hescape := rxClass_esc hready hst hesc hstartEsc.symm hendEsc.symm
  exact ⟨forall_row_of_rxClass hend (exec_rxByte_endMark hend),
    forall_row_of_rxClass hescape (exec_rxByte_esc hescape)⟩

/-- Settles O11: the append runs on the state with the escape flag cleared. -/
theorem escapedByteIsAppended : Obligations.EscapedByteIsAppended := by
  intro s b hready hst hesc
  have hclass := rxClass_of_escape_pending hready hst hesc b
  let u : State := { s with rxEsc := false }
  refine ⟨(append b u).pkt, ?_, fun h => append_pkt_stored (s := u) h b, fun h => append_pkt_of_full (s := u) h b⟩
  refine forall_row_of_rxClass hclass ((exec_rxByte_escaped hclass).trans ?_)
  exact congrArg _ (append_eq_update b u)

/-- Settles O12. -/
theorem dataByteIsAppended : Obligations.DataByteIsAppended := by
  intro s b hready hst hesc hstart hend hb
  have hclass := rxClass_data hready hst hesc hstart hend hb
  refine ⟨(append b s).pkt, ?_, fun h => append_pkt_stored h b, fun h => append_pkt_of_full h b⟩
  refine forall_row_of_rxClass hclass ((exec_rxByte_data hclass).trans ?_)
  exact congrArg _ (append_eq_update b s)

/-- Settles O13. -/
theorem tickHalves : Obligations.TickHalves := by
  refine fun s => ⟨fun hst h => ?expires, fun hst h => ?counts, fun hst => ?outside, ?arbitration, ?commutes⟩
  case expires => exact congrArg _ (tickReceiver_of_last_tick hst h)
  case counts => exact congrArg _ (tickReceiver_of_ticks_left hst h)
  case outside => exact congrArg _ (tickReceiver_of_not_assembling hst)
  case arbitration => exact congrArg _ (tickArbitrator_eq s)
  case commutes => exact congrArg _ (tickArbitrator_tickReceiver s)

end Sys2Proof.Machine

/-! ## The protocol session (obligations O28 to O31, O33, O35, O46 and O48 to O50)

What `POLL` does in each session state of 42_session_fsm.md R173 to R181, as an equation for each branch of the rule;
the transition table of R171 follows from these equations. -/

namespace Sys2Proof.Machine

/-! ### `POLL` runs the row of its state, R170 -/

section Poll
variable {s : State} {st : SessionState}

theorem exec_poll_of_polls (h : s.polls st) : exec .poll s = exec (pollInstr .fgNone st) s := by
  obtain ⟨hfg, rfl⟩ := h
  rw [← exec_pollInstr, hfg]

theorem exec_poll_of_hold (h : s.fgCont = .fgI2cWait) : exec .poll s = exec .pollFgI2cWait s := by
  rw [← exec_pollInstr, h]
  rfl

/-- The event and the row of the session state answer what the row answers. -/
theorem forall_poll_of_polls {r : Result} (h : s.polls st) (hrow : exec (pollInstr .fgNone st) s = r)
    {rows : List Instr} (hrows : ∀ i ∈ rows, exec i s = r) :
    ∀ i ∈ .poll :: pollInstr .fgNone st :: rows, exec i s = r :=
  List.forall_mem_cons.2 ⟨(exec_poll_of_polls h).trans hrow, List.forall_mem_cons.2 ⟨hrow, hrows⟩⟩

end Poll

/-- Settles O28: by cases on the two cursors, the row they select. -/
theorem pollRunsTheRowOfItsState : Obligations.PollRunsTheRowOfItsState := by
  intro s
  rw [← exec_pollInstr]
  cases s.fgCont with
  | fgI2cWait => rfl
  | fgNone => cases s.sessionState <;> rfl

/-! ### The hold and the settling states, R178 to R181 -/

section Settle
variable {s : State}

theorem exec_pollFgI2cWait_busy (hfg : s.fgCont = .fgI2cWait) (hbusy : s.i2cBusy = true) :
    exec .pollFgI2cWait s = .next { s with trace := s.trace ++ [.wdtKick] } :=
  (if_pos hfg).trans (if_pos hbusy)

theorem exec_pollFgI2cWait_done (hfg : s.fgCont = .fgI2cWait) (hbusy : s.i2cBusy = false) :
    exec .pollFgI2cWait s = resumeHandler { emit .wdtKick s with fgCont := .fgNone } :=
  (if_pos hfg).trans (if_neg (by simp [hbusy]))

theorem exec_pollSWaitTx (h : s.polls .waitTx) :
    exec .pollSWaitTx s
      = .next { s with sessionState := if s.txBusy = false then .waitDrain else .waitTx } := by
  refine (if_pos h).trans (congrArg _ ?_)
  by_cases hbusy : s.txBusy = false
  · rw [if_pos hbusy, if_pos hbusy]
  · rw [if_neg hbusy, if_neg hbusy, ← h.2]

theorem exec_pollSWaitDrain_empty (h : s.polls .waitDrain) (hempty : s.uartTxEmpty = true) :
    exec .pollSWaitDrain s = .next { s with
      lineDriverEn := false
      sessionState := .finish
      trace := s.trace ++ [.activityPulse] } :=
  (if_pos h).trans (congrArg _ (if_pos hempty))

theorem exec_pollSWaitDrain_draining (h : s.polls .waitDrain) (hempty : s.uartTxEmpty = false) :
    exec .pollSWaitDrain s = .next s :=
  (if_pos h).trans (congrArg _ (if_neg (by simp [hempty])))

theorem exec_pollSFinish (h : s.polls .finish) : exec .pollSFinish s = .next (returnToStart s) :=
  if_pos h

/-- R172 and R180: what one `POLL` sends to S_FINISH, the next one returns to S_START. -/
theorem execAll_poll_poll_of_finish {t : State} (h : exec .poll s = .next t) (ht : t.polls .finish) :
    execAll [.poll, .poll] s = .next (returnToStart t) :=
  (execAll_cons_next h).trans (execAll_cons_next ((exec_poll_of_polls ht).trans (exec_pollSFinish ht)))

end Settle

/-- Settles O46. -/
theorem holdServicesTheWatchdog : Obligations.HoldServicesTheWatchdog := by
  intro s hfg hbusy
  have hrow := exec_pollFgI2cWait_busy hfg hbusy
  exact List.forall_mem_cons.2 ⟨(exec_poll_of_hold hfg).trans hrow, List.forall_mem_singleton.2 hrow⟩

/-- Settles O50. -/
theorem settleStates : Obligations.SettleStates := by
  refine fun s => ⟨fun h => ?waitTx, fun h hempty => ?drained, fun h hempty => ?draining, fun h => ?finish⟩
  case waitTx => exact forall_poll_of_polls h (exec_pollSWaitTx h) (List.forall_mem_nil _)
  case drained => exact forall_poll_of_polls h (exec_pollSWaitDrain_empty h hempty) (List.forall_mem_nil _)
  case draining => exact forall_poll_of_polls h (exec_pollSWaitDrain_draining h hempty) (List.forall_mem_nil _)
  case finish => exact forall_poll_of_polls h (exec_pollSFinish h) (List.forall_mem_nil _)

/-! ### S_START, R173 with 45_arbitrator.md R242 and R244 -/

section Start
variable {s : State}

theorem exec_pollSStart_ready (h : s.polls .start) (hready : s.pktReady = true) :
    exec .pollSStart s = .next { s with sessionState := .packetReady } :=
  (if_pos h).trans (if_pos hready)

theorem exec_pollSStart_due (h : s.polls .start) (hdue : s.attemptDue) :
    exec .pollSStart s = sendNotification s := by
  obtain ⟨hready, hattempt⟩ := hdue
  exact (if_pos h).trans ((if_neg (by simp [hready])).trans (if_pos hattempt))

theorem exec_pollSStart_quiet (h : s.polls .start) (hready : s.pktReady = false) (hquiet : ¬ s.attemptDue) :
    exec .pollSStart s = .next s :=
  (if_pos h).trans ((if_neg (by simp [hready])).trans (if_neg fun hattempt => hquiet ⟨hready, hattempt⟩))

theorem exec_irq16_due (h : s.polls .start) (hdue : s.attemptDue) : exec .irq16 s = sendNotification s :=
  (if_pos h).trans (if_pos hdue)

theorem exec_notify_due (h : s.polls .start) (hdue : s.attemptDue) : exec .notify s = sendNotification s :=
  if_pos ⟨h, hdue⟩

/-- The notification in one record: the first three bytes of the packet, and the new seed of the holdoff. -/
theorem sendNotification_eq (hl : s.cfg.Legal) :
    sendNotification s = .next { s with
      pkt := s.pkt.writeAll .pkt 0 [s.cfg.hdrIrq16, s.nodeAddr, s.cfg.notifyCmd]
      txLen := 5
      crc16Mode := true
      crc8Reg := crc8 s.cfg [s.irqHoldoff.setWidth 8]
      irqHoldoff := (crc8 s.cfg [s.irqHoldoff.setWidth 8]).extractLsb' 0 5
      irqTimer := (crc8 s.cfg [s.irqHoldoff.setWidth 8]).extractLsb' 0 5
      sessionState := .txStart } := by
  have hcap : 3 ≤ s.cfg.cap := le_trans (by decide) (legal_five_le_cap hl)
  exact sendNotification_next.2 ⟨hcap, rfl⟩

end Start

/-- Settles O30. -/
theorem startSelectsFrameOrNotification : Obligations.StartSelectsFrameOrNotification := by
  refine fun s hl h => ⟨fun hready => ?ready, fun hready hattempt => ?due, fun hready hquiet => ?quiet⟩
  case ready => exact forall_poll_of_polls h (exec_pollSStart_ready h hready) (List.forall_mem_nil _)
  case quiet =>
    exact forall_poll_of_polls h (exec_pollSStart_quiet h hready fun hdue => hquiet hdue.2) (List.forall_mem_nil _)
  case due =>
    have hdue : s.attemptDue := ⟨hready, hattempt⟩
    have hsend := sendNotification_eq hl
    refine ⟨_, forall_poll_of_polls h ((exec_pollSStart_due h hdue).trans hsend) ?_, Memory.writeAll_stored ..⟩
    exact List.forall_mem_cons.2 ⟨(exec_irq16_due h hdue).trans hsend,
      List.forall_mem_singleton.2 ((exec_notify_due h hdue).trans hsend)⟩

/-! ### S_PACKET_READY, R174 -/

theorem legal_requests_distinct {c : Cfg} (hl : c.Legal) : c.hdrReq8 ≠ c.hdrReq16 := by
  obtain ⟨-, -, hheaders, -⟩ := hl
  exact fun h => (List.nodup_cons.1 hheaders).1 (h ▸ List.mem_cons_self)

theorem controlOf_hdrReq8 (c : Cfg) : controlOf c c.hdrReq8 = .req8 := if_pos rfl

theorem controlOf_hdrReq16 {c : Cfg} (hl : c.Legal) : controlOf c c.hdrReq16 = .req16 :=
  (if_neg (legal_requests_distinct hl).symm).trans (if_pos rfl)

theorem crcVerdict_decide (p : Prop) [Decidable p] (s : State) :
    crcVerdict (decide p) s = if p then { s with sessionState := .decode } else abandon (countCrcError s) := by
  by_cases h : p
  · rw [if_pos h, decide_eq_true h]; rfl
  · rw [if_neg h, decide_eq_false h]; rfl

section Validate
variable (s : State)

/-- The checks of an 8-bit-CRC request in one answer: past the length check every access is inside the buffer. -/
theorem validate8_eq :
    validate8 s = .next (
      if s.rxIdx > s.cfg.cap ∨ s.rxIdx < 4 then { s with crc16Mode := false, sessionState := .finish }
      else if crc8 s.cfg (s.pktBytes (s.rxIdx - 1)) = s.pktByte (s.rxIdx - 1) then
        { s with
          crc16Mode := false
          crc8Reg := crc8 s.cfg (s.pktBytes (s.rxIdx - 1))
          sessionState := .decode }
      else
        { s with
          crc16Mode := false
          crc8Reg := crc8 s.cfg (s.pktBytes (s.rxIdx - 1))
          crcErrCount := s.crcErrCount + 1
          sessionState := .finish }) := by
  by_cases hlen : s.rxIdx > s.cfg.cap ∨ s.rxIdx < 4
  · rw [if_pos hlen]
    exact if_pos hlen
  · have hcovered : s.rxIdx - 1 ≤ s.cfg.cap := by omega
    have hcrc : s.rxIdx - 1 < s.cfg.cap := by omega
    rw [if_neg hlen]
    exact (if_neg hlen).trans <| (if_pos hcovered).trans <| (if_pos hcrc).trans <|
      congrArg _ (crcVerdict_decide ..)

/-- The checks of a 16-bit-CRC request, likewise. -/
theorem validate16_eq :
    validate16 s = .next (
      if s.rxIdx > s.cfg.cap ∨ s.rxIdx < 5 then { s with crc16Mode := true, sessionState := .finish }
      else if crc16 s.cfg 0 (s.pktBytes (s.rxIdx - 2)) = s.pktByte (s.rxIdx - 1) ++ s.pktByte (s.rxIdx - 2) then
        { s with
          crc16Mode := true
          crc16Reg := crc16 s.cfg 0 (s.pktBytes (s.rxIdx - 2))
          sessionState := .decode }
      else
        { s with
          crc16Mode := true
          crc16Reg := crc16 s.cfg 0 (s.pktBytes (s.rxIdx - 2))
          crcErrCount := s.crcErrCount + 1
          sessionState := .finish }) := by
  by_cases hlen : s.rxIdx > s.cfg.cap ∨ s.rxIdx < 5
  · rw [if_pos hlen]
    exact if_pos hlen
  · have hcovered : s.rxIdx - 2 ≤ s.cfg.cap := by omega
    have hhi : s.rxIdx - 1 < s.cfg.cap := by omega
    have hlo : s.rxIdx - 2 < s.cfg.cap := by omega
    rw [if_neg hlen]
    exact (if_neg hlen).trans <| (if_pos hcovered).trans <| (if_pos hhi).trans <| (if_pos hlo).trans <|
      congrArg _ (crcVerdict_decide ..)

end Validate

section PacketReady
variable {s : State} (h : s.polls .packetReady)
include h

theorem exec_pollSPacketReady_empty (hidx : s.rxIdx = 0) : exec .pollSPacketReady s = .next (abandon s) :=
  (if_pos h).trans (if_pos hidx)

variable (hidx : 1 ≤ s.rxIdx) (hcap : 0 < s.cfg.cap)
include hidx hcap

theorem exec_req8 (hk : controlOf s.cfg (s.pktByte 0) = .req8) : exec .req8 s = validate8 s :=
  onHeader_of_controlOf h hidx hcap hk _

theorem exec_req16 (hk : controlOf s.cfg (s.pktByte 0) = .req16) : exec .req16 s = validate16 s :=
  onHeader_of_controlOf h hidx hcap hk _

theorem exec_pollSPacketReady_req8 (hk : controlOf s.cfg (s.pktByte 0) = .req8) :
    exec .pollSPacketReady s = validate8 s := by
  have hne : s.rxIdx ≠ 0 := by omega
  simp only [exec, execPollSPacketReady, onlyIf, readPkt, if_pos h, if_neg hne, if_pos hcap, hk]

theorem exec_pollSPacketReady_req16 (hk : controlOf s.cfg (s.pktByte 0) = .req16) :
    exec .pollSPacketReady s = validate16 s := by
  have hne : s.rxIdx ≠ 0 := by omega
  simp only [exec, execPollSPacketReady, onlyIf, readPkt, if_pos h, if_neg hne, if_pos hcap, hk]

end PacketReady

/-- Settles O31: the control byte selects the checks, and the event and the row of its header run the same ones. -/
theorem packetReadyValidates : Obligations.PacketReadyValidates := by
  intro s hl h
  have hcap : 0 < s.cfg.cap := lt_of_lt_of_le (by decide) (legal_five_le_cap hl)
  refine ⟨fun hbad => ?abandoned, fun hidx hb => ?req8, fun hidx hb => ?req16⟩
  case abandoned =>
    refine forall_poll_of_polls h ?_ (List.forall_mem_nil _)
    by_cases hidx : s.rxIdx = 0
    · exact exec_pollSPacketReady_empty h hidx
    · obtain ⟨h8, h16⟩ := hbad.resolve_left hidx
      exact execPollSPacketReady_abandons h (by omega) hcap h8 h16
  case req8 =>
    have hk : controlOf s.cfg (s.pktByte 0) = .req8 := hb ▸ controlOf_hdrReq8 s.cfg
    have hchecks := validate8_eq s
    exact forall_poll_of_polls h ((exec_pollSPacketReady_req8 h hidx hcap hk).trans hchecks)
      (List.forall_mem_singleton.2 ((exec_req8 h hidx hcap hk).trans hchecks))
  case req16 =>
    have hk : controlOf s.cfg (s.pktByte 0) = .req16 := hb ▸ controlOf_hdrReq16 hl
    have hchecks := validate16_eq s
    exact forall_poll_of_polls h ((exec_pollSPacketReady_req16 h hidx hcap hk).trans hchecks)
      (List.forall_mem_singleton.2 ((exec_req16 h hidx hcap hk).trans hchecks))

/-! ### S_RESPOND, R176 -/

section Respond
variable {s : State} (h : s.polls .respond)
include h

/-- A row that sends an acknowledgement variant answers with it when S_RESPOND selects that variant. -/
theorem ackRow_sent {b : Byte} (hb : s.ackVariant = b) (m : String) (k : Control) :
    ackRow m k b s = respondWith b s :=
  (if_pos h).trans (if_pos hb)

theorem exec_pollSRespond {b : Byte} (hb : s.ackVariant = b) : exec .pollSRespond s = respondWith b s := by
  rw [← hb]
  exact if_pos h

end Respond

/-- The variant of R176: the wide variants in a 16-bit exchange, a positive
acknowledgement for `ERR_NONE`. -/
theorem ackVariant_eq (s : State) :
    s.ackVariant =
      if s.crc16Mode = true then (if s.lastError = s.cfg.errNone then s.cfg.hdrAck16 else s.cfg.hdrNak16)
      else if s.lastError = s.cfg.errNone then s.cfg.hdrAck8 else s.cfg.hdrNak8 := by
  unfold State.ackVariant
  by_cases herr : s.lastError = s.cfg.errNone <;> cases s.crc16Mode <;> simp [herr]

/-- Settles O48: in each of the four cases the row is the one whose variant S_RESPOND selects. -/
theorem respondSelectsTheVariant : Obligations.RespondSelectsTheVariant := by
  intro s hl h b row hrow
  have hcap : 1 ≤ s.cfg.cap := le_trans (by decide) (legal_five_le_cap hl)
  have hsend := (respondWith_next (h := b)).2 ⟨hcap, rfl⟩
  obtain ⟨hb, hsent⟩ : s.ackVariant = b ∧ exec row s = respondWith b s := by
    have hv := ackVariant_eq s
    split_ifs at hv hrow
    all_goals
      obtain ⟨rfl, rfl⟩ := Prod.mk.inj hrow
      exact ⟨hv, ackRow_sent h hv ..⟩
  exact ⟨_, forall_poll_of_polls h ((exec_pollSRespond h hb).trans hsend)
    (List.forall_mem_singleton.2 (hsent.trans hsend)), Memory.writeAll_stored ..⟩

/-! ### S_TX_START, R177 with 43_frame_transmitter.md R200 -/

section TxStart
variable {s : State} (h : s.polls .txStart) (hcap : s.txLen ≤ s.cfg.cap)
include h hcap

theorem exec_pollSTxStart_crc8 (hmode : s.crc16Mode = false) (hlen : 1 ≤ s.txLen) :
    exec .pollSTxStart s = .next (armTransmitter { s with
      pkt := s.pkt.writeAll .pkt (s.txLen - 1) [crc8 s.cfg (s.pktBytes (s.txLen - 1))]
      crc8Reg := crc8 s.cfg (s.pktBytes (s.txLen - 1)) }) := by
  have hcovered : s.txLen - 1 ≤ s.cfg.cap := by omega
  have hcrc : s.txLen - 1 + 1 ≤ s.cfg.cap := by omega
  exact (if_pos h).trans <| (if_neg (by simp [hmode])).trans <| (if_neg (by omega)).trans <|
    (if_pos hcovered).trans (if_pos hcrc)

theorem exec_pollSTxStart_crc16 (hmode : s.crc16Mode = true) (hlen : 2 ≤ s.txLen) :
    exec .pollSTxStart s = .next (armTransmitter { s with
      pkt := s.pkt.writeAll .pkt (s.txLen - 2)
        [loByte (crc16 s.cfg 0 (s.pktBytes (s.txLen - 2))), hiByte (crc16 s.cfg 0 (s.pktBytes (s.txLen - 2)))]
      crc16Reg := crc16 s.cfg 0 (s.pktBytes (s.txLen - 2)) }) := by
  have hcovered : s.txLen - 2 ≤ s.cfg.cap := by omega
  have hcrc : s.txLen - 2 + 2 ≤ s.cfg.cap := by omega
  exact (if_pos h).trans <| (if_pos hmode).trans <| (if_neg (by omega)).trans <|
    (if_pos hcovered).trans (if_pos hcrc)

end TxStart

/-- 30_encoding.md R94: every overhead holds the CRC of its width. -/
theorem crc_le_overhead (s : State) : 1 ≤ s.overhead ∧ (s.crc16Mode = true → 2 ≤ s.overhead) := by
  unfold State.overhead
  cases s.crc16Mode <;> decide

/-- Settles O49. -/
theorem transmitStartWritesCrcAndArms : Obligations.TransmitStartWritesCrcAndArms := by
  intro s h hlen hcap
  obtain ⟨hlen8, hlen16⟩ := crc_le_overhead s
  refine ⟨fun hmode => ?crc8, fun hmode => ?crc16⟩
  case crc8 =>
    have hrow := exec_pollSTxStart_crc8 h hcap hmode (hlen8.trans hlen)
    exact ⟨_, forall_poll_of_polls h hrow (List.forall_mem_nil _), Memory.writeAll_stored ..⟩
  case crc16 =>
    have hrow := exec_pollSTxStart_crc16 h hcap hmode ((hlen16 hmode).trans hlen)
    exact ⟨_, forall_poll_of_polls h hrow (List.forall_mem_nil _), Memory.writeAll_stored ..⟩

/-! ### S_DECODE, R175 -/

section Arms
variable {s : State} {inMode : Byte → Result} {onBroadcast onUnicast : Result} (hcap : 1 < s.cfg.cap)
include hcap

theorem addressArms_inMode (hmode : s.addrProgEn = true) :
    addressArms s inMode onBroadcast onUnicast = inMode (s.pktByte 1) :=
  (if_pos hcap).trans (if_pos hmode)

theorem addressArms_foreign (hmode : s.addrProgEn = false) (hbroadcast : s.pktByte 1 ≠ broadcast)
    (hnode : s.pktByte 1 ≠ s.nodeAddr) : addressArms s inMode onBroadcast onUnicast = .next (abandon s) :=
  addressArms_next.2 ⟨hcap, .inr (.inr (.inr ⟨hmode, hbroadcast, hnode, rfl⟩))⟩

end Arms

theorem legal_commands_distinct {c : Cfg} (hl : c.Legal) : c.commands.Nodup := by
  obtain ⟨-, -, -, hcommands, -⟩ := hl
  exact hcommands

/-- What a frame with command `x` for the address `a` does in address-programming mode. -/
def programmingAnswer (x a : Byte) (s : State) : State :=
  if x = s.cfg.cmdProgramAddress ∧ a ≠ broadcast then acceptAddress a s else abandon s

/-- R175 as a whole: the mode decides first, then the address, then the command. -/
theorem exec_pollSDecode_eq {s : State} (hl : s.cfg.Legal) (h : s.polls .decode) :
    exec .pollSDecode s =
      if s.addrProgEn = true then .next (programmingAnswer (s.pktByte 2) (s.pktByte 1) s)
      else if s.pktByte 1 = broadcast then .next (broadcastAction (s.pktByte 2) s)
      else if s.pktByte 1 = s.nodeAddr then dispatch (s.pktByte 2) s
      else .next (abandon s) := by
  have hcap := legal_five_le_cap hl
  have h1 : 1 < s.cfg.cap := by omega
  have h2 : 2 < s.cfg.cap := by omega
  refine (if_pos h).trans ((if_pos h1).trans ((if_pos h2).trans ?_))
  rw [programmingAnswer, apply_ite Host.Outcome.next]

section Decoding
variable {s : State} {x : Byte} (h : s.decoding x)
include h

theorem decoding_cap : 1 < s.cfg.cap ∧ 2 < s.cfg.cap := by
  obtain ⟨hl, -⟩ := h
  have hcap := legal_five_le_cap hl
  omega

theorem exec_addrUnicast_eq (hunicast : s.pktByte 1 ≠ broadcast) :
    exec (.addrUnicast (s.pktByte 1)) s =
      if s.addrProgEn = true then .next (programmingAnswer x (s.pktByte 1) s)
      else if s.pktByte 1 = s.nodeAddr then dispatch x s
      else .next (abandon s) := by
  obtain ⟨h1, h2⟩ := decoding_cap h
  obtain ⟨-, hp, -, rfl⟩ := h
  refine (if_pos ⟨hp, hunicast⟩).trans ((if_pos h1).trans ((if_pos rfl).trans ((if_pos h2).trans ?_)))
  simp only [programmingAnswer, hunicast, ne_eq, not_false_eq_true, and_true, apply_ite Host.Outcome.next]

theorem exec_addrBroadcast_inMode (hbroadcast : s.pktByte 1 = broadcast) (hmode : s.addrProgEn = true) :
    exec .addrBroadcast s = .next (abandon s) := by
  obtain ⟨h1, -⟩ := decoding_cap h
  obtain ⟨-, hp, -⟩ := h
  exact (if_pos hp).trans ((if_pos h1).trans ((if_pos hbroadcast).trans (if_pos hmode)))

/-- The row of the frame's command has the arms of R175, whichever command it is. -/
theorem exec_commandOf_instr_eq_addressArms :
    ∃ inMode onBroadcast onUnicast,
      exec ((commandOf s.cfg x).instr x) s = addressArms s inMode onBroadcast onUnicast
        ∧ ∀ a, inMode a = .next (programmingAnswer x a s) := by
  obtain ⟨-, h2⟩ := decoding_cap h
  obtain ⟨hl, hp, -, hx⟩ := h
  have hrow (m : String) (r : Result) : onCommand m (commandOf s.cfg x) s r = r := by
    rw [onCommand, onlyIf, if_pos hp, readPkt, if_pos h2, onlyIf, if_pos (by rw [hx])]
  have hrefused (hk : commandOf s.cfg x ≠ .programAddress) (a : Byte) : programmingAnswer x a s = abandon s := by
    refine if_neg fun ⟨hcmd, _⟩ => hk ?_
    rw [hcmd]
    exact commandOf_cmdProgramAddress (legal_commands_distinct hl)
  cases hk : commandOf s.cfg x with
  | programAddress =>
    rw [hk] at hrow
    refine ⟨_, _, _, hrow .., fun a => ?_⟩
    rw [programmingAnswer, eq_cmdProgramAddress hk]
    by_cases ha : a = broadcast <;> simp [ha]
  | unknown =>
    rw [hk] at hrow hrefused
    exact ⟨_, _, _, (if_pos hx).trans (hrow ..), fun a => by rw [hrefused (by decide)]⟩
  | noOp | getNodeId | getCommStatus | getIrqPoll | output | getVolts | getCurrent | getPower | shuntConfig
  | enumRequest =>
    rw [hk] at hrow hrefused
    exact ⟨_, _, _, hrow .., fun a => by rw [hrefused (by decide)]⟩

/-- In address-programming mode the event and the rows of the state, the address and the command answer alike. -/
theorem forall_row_inMode (hmode : s.addrProgEn = true) :
    ∀ i ∈ [Instr.poll, .pollSDecode,
        if s.pktByte 1 = broadcast then .addrBroadcast else .addrUnicast (s.pktByte 1),
        (commandOf s.cfg x).instr x],
      exec i s = .next (programmingAnswer x (s.pktByte 1) s) := by
  obtain ⟨h1, -⟩ := decoding_cap h
  have ⟨hl, hp, _, hx⟩ := h
  refine forall_poll_of_polls hp (hx ▸ (exec_pollSDecode_eq hl hp).trans (if_pos hmode)) ?_
  refine List.forall_mem_cons.2 ⟨?address, List.forall_mem_singleton.2 ?command⟩
  case address =>
    by_cases hb : s.pktByte 1 = broadcast
    · have hrefused : programmingAnswer x (s.pktByte 1) s = abandon s := if_neg fun hx => hx.2 hb
      rw [if_pos hb, hrefused]
      exact exec_addrBroadcast_inMode h hb hmode
    · rw [if_neg hb]
      exact (exec_addrUnicast_eq h hb).trans (if_pos hmode)
  case command =>
    obtain ⟨inMode, _, _, hrow, hinMode⟩ := exec_commandOf_instr_eq_addressArms h
    rw [hrow, addressArms_inMode h1 hmode, hinMode]

/-- Outside the mode they alike abandon a frame that is neither for this node nor broadcast. -/
theorem forall_row_foreign (hmode : s.addrProgEn = false) (hnode : s.pktByte 1 ≠ s.nodeAddr)
    (hbroadcast : s.pktByte 1 ≠ broadcast) :
    ∀ i ∈ [Instr.poll, .pollSDecode, .addrUnicast (s.pktByte 1), (commandOf s.cfg x).instr x],
      exec i s = .next (abandon s) := by
  obtain ⟨h1, -⟩ := decoding_cap h
  have ⟨hl, hp, _⟩ := h
  have hm : ¬ s.addrProgEn = true := by simp [hmode]
  refine forall_poll_of_polls hp ?state (List.forall_mem_cons.2 ⟨?address, List.forall_mem_singleton.2 ?command⟩)
  case state => exact (exec_pollSDecode_eq hl hp).trans (by rw [if_neg hm, if_neg hbroadcast, if_neg hnode])
  case address => rw [exec_addrUnicast_eq h hbroadcast, if_neg hm, if_neg hnode]
  case command =>
    obtain ⟨_, _, _, hrow, -⟩ := exec_commandOf_instr_eq_addressArms h
    rw [hrow, addressArms_foreign h1 hmode hbroadcast hnode]

theorem exec_poll_broadcast (hmode : s.addrProgEn = false) (hbroadcast : s.pktByte 1 = broadcast) :
    exec .poll s = .next (broadcastAction x s) := by
  have ⟨hl, hp, _, hx⟩ := h
  have hm : ¬ s.addrProgEn = true := by simp [hmode]
  rw [exec_poll_of_polls hp, ← hx]
  exact (exec_pollSDecode_eq hl hp).trans ((if_neg hm).trans (if_pos hbroadcast))

end Decoding

/-- 46_command_dispatch.md R269 and R270: a broadcast raises a reason at most, and then the frame is finished. -/
theorem broadcastAction_frame (x : Byte) (s : State) :
    (broadcastAction x s).trace = s.trace ∧ (broadcastAction x s).lineDriverEn = s.lineDriverEn
      ∧ (broadcastAction x s).txIrqEn = s.txIrqEn ∧ (broadcastAction x s).fgCont = s.fgCont
      ∧ (broadcastAction x s).sessionState = .finish := by
  dsimp only [broadcastAction]
  split <;> exact ⟨rfl, rfl, rfl, rfl, rfl⟩

/-- Settles O33: one POLL abandons the frame or runs its broadcast action, the next one returns to S_START. -/
theorem privacyAndBroadcastSilence : Obligations.PrivacyAndBroadcastSilence := by
  intro s x h hmode
  have ⟨_, ⟨hfg, _⟩, _⟩ := h
  refine ⟨fun hnode hbroadcast => ?foreign, fun hbroadcast => ?broadcast⟩
  case foreign =>
    have hrows := forall_row_foreign h hmode hnode hbroadcast
    have hpoll : exec .poll s = .next (abandon s) := hrows _ List.mem_cons_self
    exact ⟨hrows, execAll_poll_poll_of_finish (t := abandon s) hpoll ⟨hfg, rfl⟩⟩
  case broadcast =>
    obtain ⟨htrace, hdriver, henable, hkept, hfinish⟩ := broadcastAction_frame x s
    have hpoll := exec_poll_broadcast h hmode hbroadcast
    exact ⟨_, execAll_poll_poll_of_finish hpoll ⟨hkept.trans hfg, hfinish⟩, htrace, hdriver, henable, rfl, rfl⟩

/-- Settles O35: all the rows give the answer of the mode, which accepts one command and abandons every other frame. -/
theorem addressProgrammingMode : Obligations.AddressProgrammingMode := by
  rintro s x _ h hmode rfl
  have ⟨hl, _⟩ := h
  have hrows := forall_row_inMode h hmode
  refine ⟨fun hx ha => ?accepted, fun hother => ?abandoned⟩
  case accepted =>
    have hk : commandOf s.cfg x = .programAddress := hx ▸ commandOf_cmdProgramAddress (legal_commands_distinct hl)
    have haccept : programmingAnswer x (s.pktByte 1) s = acceptAddress (s.pktByte 1) s := if_pos ⟨hx, ha⟩
    rw [if_neg ha, hk, haccept] at hrows
    exact ⟨_, hrows, Memory.write_stored ..⟩
  case abandoned =>
    have hrefused : programmingAnswer x (s.pktByte 1) s = abandon s :=
      if_neg fun hx => hother.elim (fun hne => hne hx.1) hx.2
    rw [hrefused] at hrows
    exact hrows

/-! ### Where a dispatched command leads, R175 and R181

`Dispatched r`: the answers of `r` have the result of the command in S_RESPOND, or hold the foreground in S_DECODE. -/

/-- Every next state a result answers is at S_RESPOND, or in S_DECODE with the foreground held. -/
def Dispatched (r : Result) : Prop :=
  ∀ t, r = .next t → t.sessionState = .respond ∨ (t.sessionState = .decode ∧ t.fgCont = .fgI2cWait)

section Dispatched
variable {s : State} {r r' : Result}

theorem Dispatched.ite {p : Prop} [Decidable p] (h : Dispatched r) (h' : Dispatched r') :
    Dispatched (if p then r else r') := by
  split
  · exact h
  · exact h'

theorem Dispatched.readParam {i : Nat} {k : Byte → Result} (h : ∀ b, Dispatched (k b)) :
    Dispatched (readParam s i k) := fun t ht => h _ t (readParam_next.1 ht).2

theorem Dispatched.writeParams {i : Nat} {vs : Bytes} {k : State → Result} (h : ∀ u, Dispatched (k u)) :
    Dispatched (writeParams s i vs k) := fun t ht => h _ t (writeParams_next.1 ht).2

theorem dispatched_finishCommand (err : Byte) (s : State) : Dispatched (.next (finishCommand err s)) := by
  rintro _ ⟨⟩; exact .inl rfl

theorem dispatched_commandOk (s : State) : Dispatched (commandOk s) := dispatched_finishCommand _ s

theorem dispatched_badParam (s : State) : Dispatched (badParam s) := dispatched_finishCommand _ s

theorem Dispatched.withParams {n : Nat} (h : Dispatched r) : Dispatched (withParams n s r) :=
  .ite h (dispatched_badParam s)

/-- A bus transaction begun in S_DECODE is waited for there. -/
theorem dispatched_beginTransaction (hst : s.sessionState = .decode) {dir : Dir} {reg : Byte} {val : Half} :
    Dispatched (beginTransaction dir reg val s hold) := by
  intro t ht
  obtain ⟨-, hheld⟩ := beginTransaction_next.1 ht
  rw [hold_next.1 hheld]
  exact .inr ⟨hst, rfl⟩

theorem dispatched_outputWrite (v : Bool) (s : State) : Dispatched (outputWrite v s) :=
  .readParam fun _ => .readParam fun _ => .ite (dispatched_badParam s) (dispatched_commandOk _)

theorem dispatched_handleOutput (s : State) : Dispatched (handleOutput s) :=
  .withParams <| .readParam fun sub => by
    cases outputSubOf sub with
    | none => exact dispatched_badParam s
    | some k =>
      cases k with
      | clear | set => exact dispatched_outputWrite _ s
      | read =>
        exact .readParam fun _ => .ite (dispatched_badParam s) (.writeParams fun _ => dispatched_commandOk _)

theorem persistRatings_sessionState (v : Byte) (i : Half) (s : State) :
    (persistRatings v i s).sessionState = s.sessionState := by
  rw [persistRatings_eq]

theorem dispatched_shuntConfigWrite (hst : s.sessionState = .decode) : Dispatched (shuntConfigWrite s) :=
  .readParam fun v => .readParam fun lo => .readParam fun hi => by
    refine .ite ?_ (dispatched_badParam s)
    extract_lets s1
    have hkept : s1.sessionState = s.sessionState := persistRatings_sessionState ..
    exact dispatched_beginTransaction (hkept.trans hst)

theorem dispatched_handleShuntConfig (hst : s.sessionState = .decode) : Dispatched (handleShuntConfig s) :=
  .withParams <| .readParam fun sub => by
    cases shuntSubOf sub with
    | none => exact dispatched_badParam s
    | some k =>
      cases k with
      | readConfig | readCal => exact .writeParams fun _ => dispatched_commandOk _
      | writeConfig => exact dispatched_shuntConfigWrite hst

theorem dispatched_dispatch (hst : s.sessionState = .decode) (c : Byte) : Dispatched (dispatch c s) := by
  unfold dispatch
  cases commandOf s.cfg c with
  | noOp => exact .withParams (dispatched_commandOk s)
  | getNodeId | getIrqPoll => exact .withParams (.writeParams fun _ => dispatched_commandOk _)
  | getCommStatus => exact .withParams (.readParam fun _ => .writeParams fun _ => dispatched_commandOk _)
  | output => exact dispatched_handleOutput s
  | getVolts | getCurrent | getPower => exact .withParams (dispatched_beginTransaction hst)
  | shuntConfig => exact dispatched_handleShuntConfig hst
  | programAddress | enumRequest | unknown => exact dispatched_finishCommand _ s

end Dispatched

/-- 42_session_fsm.md R181: the handler that waited ends its command. -/
theorem resumeHandler_sessionState {s t : State} (h : resumeHandler s = .next t) : t.sessionState = .respond := by
  obtain ⟨-, hk⟩ := readPkt_next.1 h
  cases hc : commandOf s.cfg (s.pktByte 2) <;> rw [hc] at hk
  case getVolts | getCurrent | getPower =>
    obtain ⟨-, rfl⟩ := telemetryFinish_next.1 hk
    rfl
  case shuntConfig => cases hk; rfl
  all_goals cases hk

/-! ### The transition table, R171 -/

section Transitions
variable {s t : State}

theorem pollSStart_transition (hl : s.cfg.Legal) (h : s.polls .start) (ht : exec .pollSStart s = .next t) :
    (t.sessionState = .packetReady ∧ s.pktReady = true)
      ∨ (t.sessionState = .txStart ∧ s.pktReady = false ∧ s.attemptDue)
      ∨ (t.sessionState = .start ∧ s.pktReady = false ∧ ¬ s.attemptDue) := by
  cases hready : s.pktReady with
  | true =>
    rw [exec_pollSStart_ready h hready] at ht
    cases ht
    exact .inl ⟨rfl, rfl⟩
  | false =>
    by_cases hdue : s.attemptDue
    · rw [exec_pollSStart_due h hdue, sendNotification_eq hl] at ht
      cases ht
      exact .inr (.inl ⟨rfl, rfl, hdue⟩)
    · rw [exec_pollSStart_quiet h hready hdue] at ht
      cases ht
      exact .inr (.inr ⟨h.2, rfl, hdue⟩)

/-- The control byte leaves one of the two arms of `frameGood`, 42_session_fsm.md R183. -/
theorem frameGood_iff_of_req8 (hl : s.cfg.Legal) (hb : s.pktByte 0 = s.cfg.hdrReq8) :
    s.frameGood ↔ 4 ≤ s.rxIdx ∧ s.rxIdx ≤ s.cfg.cap
      ∧ crc8 s.cfg (s.pktBytes (s.rxIdx - 1)) = s.pktByte (s.rxIdx - 1) := by
  simp [State.frameGood, hb, legal_requests_distinct hl]

@[inherit_doc frameGood_iff_of_req8]
theorem frameGood_iff_of_req16 (hl : s.cfg.Legal) (hb : s.pktByte 0 = s.cfg.hdrReq16) :
    s.frameGood ↔ 5 ≤ s.rxIdx ∧ s.rxIdx ≤ s.cfg.cap
      ∧ crc16 s.cfg 0 (s.pktBytes (s.rxIdx - 2)) = pair (s.pktByte (s.rxIdx - 1)) (s.pktByte (s.rxIdx - 2)) := by
  simp [State.frameGood, hb, (legal_requests_distinct hl).symm]

theorem validate8_transition (hl : s.cfg.Legal) (hb : s.pktByte 0 = s.cfg.hdrReq8) (ht : validate8 s = .next t) :
    (t.sessionState = .decode ∧ s.frameGood) ∨ (t.sessionState = .finish ∧ ¬ s.frameGood) := by
  rw [frameGood_iff_of_req8 hl hb]
  rw [validate8_eq] at ht
  split_ifs at ht with hlen hcrc <;> cases ht
  · exact .inr ⟨rfl, fun ⟨_, _, _⟩ => by omega⟩
  · exact .inl ⟨rfl, by omega, by omega, hcrc⟩
  · exact .inr ⟨rfl, fun ⟨_, _, hgood⟩ => hcrc hgood⟩

theorem validate16_transition (hl : s.cfg.Legal) (hb : s.pktByte 0 = s.cfg.hdrReq16) (ht : validate16 s = .next t) :
    (t.sessionState = .decode ∧ s.frameGood) ∨ (t.sessionState = .finish ∧ ¬ s.frameGood) := by
  rw [frameGood_iff_of_req16 hl hb]
  rw [validate16_eq] at ht
  split_ifs at ht with hlen hcrc <;> cases ht
  · exact .inr ⟨rfl, fun ⟨_, _, _⟩ => by omega⟩
  · exact .inl ⟨rfl, by omega, by omega, hcrc⟩
  · exact .inr ⟨rfl, fun ⟨_, _, hgood⟩ => hcrc hgood⟩

theorem pollSPacketReady_transition (hl : s.cfg.Legal) (h : s.polls .packetReady)
    (ht : exec .pollSPacketReady s = .next t) :
    (t.sessionState = .decode ∧ s.frameGood) ∨ (t.sessionState = .finish ∧ ¬ s.frameGood) := by
  have hcap : 0 < s.cfg.cap := lt_of_lt_of_le (by decide) (legal_five_le_cap hl)
  by_cases hempty : s.rxIdx = 0
  · rw [exec_pollSPacketReady_empty h hempty] at ht
    cases ht
    refine .inr ⟨rfl, ?_⟩
    rintro (⟨-, hlen, -⟩ | ⟨-, hlen, -⟩) <;> omega
  have hidx : 1 ≤ s.rxIdx := by omega
  by_cases h8 : s.pktByte 0 = s.cfg.hdrReq8
  · rw [exec_pollSPacketReady_req8 h hidx hcap (h8 ▸ controlOf_hdrReq8 s.cfg)] at ht
    exact validate8_transition hl h8 ht
  by_cases h16 : s.pktByte 0 = s.cfg.hdrReq16
  · rw [exec_pollSPacketReady_req16 h hidx hcap (h16 ▸ controlOf_hdrReq16 hl)] at ht
    exact validate16_transition hl h16 ht
  · have habandon : exec .pollSPacketReady s = .next (abandon s) :=
      execPollSPacketReady_abandons h hidx hcap h8 h16
    rw [habandon] at ht
    cases ht
    exact .inr ⟨rfl, fun hgood => hgood.elim (fun h => h8 h.1) (fun h => h16 h.1)⟩

/-- The row of the hold waits on, or the handler that waited ends its command. -/
theorem dispatched_pollFgI2cWait (hfg : s.fgCont = .fgI2cWait) (hst : s.sessionState = .decode) :
    Dispatched (exec .pollFgI2cWait s) := by
  intro t ht
  cases hbusy : s.i2cBusy with
  | true =>
    rw [exec_pollFgI2cWait_busy hfg hbusy] at ht
    cases ht
    exact .inr ⟨hst, hfg⟩
  | false =>
    rw [exec_pollFgI2cWait_done hfg hbusy] at ht
    exact .inl (resumeHandler_sessionState ht)

theorem pollSDecode_transition (hl : s.cfg.Legal) (h : s.polls .decode) (ht : exec .pollSDecode s = .next t) :
    (t.sessionState = .respond ∧
        ((s.addrProgEn = true ∧ s.pktByte 2 = s.cfg.cmdProgramAddress ∧ s.pktByte 1 ≠ broadcast)
        ∨ (s.addrProgEn = false ∧ s.pktByte 1 = s.nodeAddr ∧ s.pktByte 1 ≠ broadcast)))
      ∨ (t.sessionState = .finish ∧
        ((s.addrProgEn = true ∧ ¬ (s.pktByte 2 = s.cfg.cmdProgramAddress ∧ s.pktByte 1 ≠ broadcast))
        ∨ (s.addrProgEn = false ∧ (s.pktByte 1 = broadcast ∨ s.pktByte 1 ≠ s.nodeAddr))))
      ∨ (t.sessionState = .decode ∧ t.fgCont = .fgI2cWait) := by
  rw [exec_pollSDecode_eq hl h] at ht
  obtain ⟨-, hst⟩ := h
  cases hmode : s.addrProgEn with
  | true =>
    rw [if_pos hmode, programmingAnswer] at ht
    split_ifs at ht with haccept <;> cases ht
    · exact .inl ⟨rfl, .inl ⟨rfl, haccept⟩⟩
    · exact .inr (.inl ⟨rfl, .inl ⟨rfl, haccept⟩⟩)
  | false =>
    rw [if_neg (by simp [hmode])] at ht
    split_ifs at ht with hbroadcast hnode
    · cases ht
      obtain ⟨-, -, -, -, hfinish⟩ := broadcastAction_frame (s.pktByte 2) s
      exact .inr (.inl ⟨hfinish, .inr ⟨rfl, .inl hbroadcast⟩⟩)
    · rcases dispatched_dispatch hst _ t ht with hrespond | hheld
      · exact .inl ⟨hrespond, .inr ⟨rfl, hnode, hbroadcast⟩⟩
      · exact .inr (.inr hheld)
    · cases ht
      exact .inr (.inl ⟨rfl, .inr ⟨rfl, .inr hnode⟩⟩)

theorem pollSRespond_transition (h : s.polls .respond) (ht : exec .pollSRespond s = .next t) :
    t.sessionState = .txStart := by
  rw [exec_pollSRespond h rfl] at ht
  obtain ⟨-, rfl⟩ := respondWith_next.1 ht
  rfl

theorem pollSTxStart_transition (ht : exec .pollSTxStart s = .next t) : t.sessionState = .waitTx := by
  obtain ⟨-, ht⟩ := onlyIf_next.1 ht
  split_ifs at ht
  all_goals
    obtain ⟨-, ht⟩ := readSlice_next.1 ht
    obtain ⟨-, ⟨⟩⟩ := writePkt_next.1 ht
    rfl

theorem pollSWaitDrain_transition (h : s.polls .waitDrain) (ht : exec .pollSWaitDrain s = .next t) :
    t.sessionState = if s.uartTxEmpty = true then .finish else .waitDrain := by
  cases hempty : s.uartTxEmpty with
  | true =>
    rw [exec_pollSWaitDrain_empty h hempty] at ht
    cases ht
    rfl
  | false =>
    rw [exec_pollSWaitDrain_draining h hempty] at ht
    cases ht
    exact h.2

end Transitions

/-- With a hold in S_DECODE only, `POLL` runs the row of every other state. -/
theorem poll_runs_row {s t : State} {st : SessionState} (hheld : s.fgCont = .fgI2cWait → s.sessionState = .decode)
    (ht : exec .poll s = .next t) (hst : s.sessionState = st) (hne : st ≠ .decode) :
    s.polls st ∧ exec (pollInstr .fgNone st) s = .next t := by
  have hfg : s.fgCont = .fgNone := by
    cases hfg : s.fgCont with
    | fgNone => rfl
    | fgI2cWait => exact absurd (hst.symm.trans (hheld hfg)) hne
  exact ⟨⟨hfg, hst⟩, (exec_poll_of_polls ⟨hfg, hst⟩).symm.trans ht⟩

/-- Settles O29: the row that `POLL` runs in each state, and in S_DECODE the hold where there is one. -/
theorem sessionTransitions : Obligations.SessionTransitions := by
  intro s t hl hheld ht
  have hrow {st : SessionState} := poll_runs_row (st := st) hheld ht
  cases hst : s.sessionState with
  | start =>
    obtain ⟨h, ht⟩ := hrow hst (by decide)
    exact pollSStart_transition hl h ht
  | packetReady =>
    obtain ⟨h, ht⟩ := hrow hst (by decide)
    exact pollSPacketReady_transition hl h ht
  | decode =>
    cases hfg : s.fgCont with
    | fgI2cWait =>
      rw [exec_poll_of_hold hfg] at ht
      exact (dispatched_pollFgI2cWait hfg hst t ht).imp (fun hrespond => ⟨hrespond, .inl rfl⟩) .inr
    | fgNone =>
      have h : s.polls .decode := ⟨hfg, hst⟩
      rw [exec_poll_of_polls h] at ht
      exact (pollSDecode_transition hl h ht).imp (fun ⟨hrespond, hwhen⟩ => ⟨hrespond, .inr hwhen⟩)
        (.imp_left fun ⟨hfinish, hwhen⟩ => ⟨hfinish, rfl, hwhen⟩)
  | respond =>
    obtain ⟨h, ht⟩ := hrow hst (by decide)
    exact pollSRespond_transition h ht
  | txStart =>
    obtain ⟨-, ht⟩ := hrow hst (by decide)
    exact pollSTxStart_transition ht
  | waitTx =>
    obtain ⟨h, ht⟩ := hrow hst (by decide)
    cases (exec_pollSWaitTx h).symm.trans ht
    rfl
  | waitDrain =>
    obtain ⟨h, ht⟩ := hrow hst (by decide)
    exact pollSWaitDrain_transition h ht
  | finish =>
    obtain ⟨h, ht⟩ := hrow hst (by decide)
    cases (exec_pollSFinish h).symm.trans ht
    rfl

end Sys2Proof.Machine

/-! ## The rows of the frame transmitter (obligations O16, O17, O18)

43_frame_transmitter.md R200 read as an equation: an enabled `TX_READY` and the row of the transmit action answer the
same. What the event answers is in the equations of the wire form above; here they are carried over to the rows. -/

namespace Sys2Proof.Machine

/-! ### The event and the row it runs -/

section Row
variable {s : State} {a : TxAction}

/-- 43_frame_transmitter.md R200: the trigger is off. -/
theorem exec_txReady_disabled (hen : s.txIrqEn = false) : exec .txReady s = .next s :=
  if_neg (by simp [hen])

variable (hen : s.txIrqEn = true) (hidx : s.txState = .sending → s.txIdx < s.cfg.cap)
  (ha : txAction s.cfg s.txState (s.pktByte s.txIdx) = a)
include hen hidx ha

/-- 43_frame_transmitter.md R200: the trigger is on. -/
theorem exec_txReady_of_txAction : exec .txReady s = exec a.instr s := by
  rw [← ha]
  exact (exec_txAction_instr hen fun hst => ⟨hidx hst, rfl⟩).symm

/-- The row of the transmit action and the event answer what the event answers. -/
theorem forall_txReady_of_txAction {r : Result} (hr : exec .txReady s = r) :
    ∀ i ∈ [a.instr, .txReady], exec i s = r :=
  List.forall_mem_cons.2
    ⟨(exec_txReady_of_txAction hen hidx ha).symm.trans hr, List.forall_mem_singleton.2 hr⟩

end Row

/-! ### The action that the transmit state selects -/

section Action
variable {s : State} {p : Byte}

theorem txAction_idle (hst : s.txState = .idle) : txAction s.cfg s.txState p = .startMark := by
  rw [hst]; rfl

theorem txAction_escWait (hst : s.txState = .escWait) : txAction s.cfg s.txState p = .escaped := by
  rw [hst]; rfl

theorem txAction_done (hst : s.txState = .done) : txAction s.cfg s.txState p = .endMark := by
  rw [hst]; rfl

theorem txAction_sending_esc (hst : s.txState = .sending) (hp : p ≤ s.cfg.esc) :
    txAction s.cfg s.txState p = .esc := by
  rw [hst]; exact if_pos hp

theorem txAction_sending_data (hst : s.txState = .sending) (hp : ¬ p ≤ s.cfg.esc) :
    txAction s.cfg s.txState p = .data := by
  rw [hst]; exact if_neg hp

end Action

/-- Outside TX_SENDING the choice of the row does not read the buffer. -/
theorem txIdx_lt_cap_of_not_sending {s : State} {st : TxState} (hst : s.txState = st) (hne : st ≠ .sending) :
    s.txState = .sending → s.txIdx < s.cfg.cap :=
  fun hsending => absurd (hst.symm.trans hsending) hne

/-- While a byte is due (20_memory.md R62), sending it ends the packet exactly when it was the last one. -/
theorem byteSent_eq {s : State} (hrem : 1 ≤ s.txRem) :
    byteSent s = { s with
      txIdx := s.txIdx + 1
      txRem := s.txRem - 1
      txState := if s.txRem = 1 then .done else .sending
      trace := s.trace ++ [.uartWrite (s.pktByte s.txIdx)] } := by
  have hlast : s.txRem - 1 = 0 ↔ s.txRem = 1 := by omega
  simp only [byteSent, emit, dataSent, hlast]

/-! ### The obligations -/

/-- Settles O16: the row of each transmit state, and R200's one byte from the law of the output trace. -/
theorem transmitEventRunsItsRow : Obligations.TransmitEventRunsItsRow := by
  refine fun s => ⟨exec_txReady_disabled, fun hen => ⟨fun hst => ?idle, fun hst hidx => ?sending,
    fun hst => ?escWait, fun hst => ?done, fun t ht => ?writes⟩⟩
  case idle =>
    exact exec_txReady_of_txAction hen (txIdx_lt_cap_of_not_sending hst (by decide)) (txAction_idle hst)
  case sending =>
    split
    case isTrue hp => exact exec_txReady_of_txAction hen (fun _ => hidx) (txAction_sending_esc hst hp)
    case isFalse hp => exact exec_txReady_of_txAction hen (fun _ => hidx) (txAction_sending_data hst hp)
  case escWait =>
    exact exec_txReady_of_txAction hen (txIdx_lt_cap_of_not_sending hst (by decide)) (txAction_escWait hst)
  case done =>
    exact exec_txReady_of_txAction hen (txIdx_lt_cap_of_not_sending hst (by decide)) (txAction_done hst)
  case writes =>
    rcases execTxReady_next ht with ⟨hoff, -⟩ | ⟨-, -, hbyte⟩
    · exact absurd (hen.symm.trans hoff) (by decide)
    · exact hbyte

/-- Settles O17: the start marker begins the frame and the end marker ends it. -/
theorem transmitMarkers : Obligations.TransmitMarkers := by
  refine fun s hen => ⟨fun hst => ?start, fun hst => ?finish⟩
  case start =>
    exact forall_txReady_of_txAction hen (txIdx_lt_cap_of_not_sending hst (by decide)) (txAction_idle hst)
      (exec_txReady_idle hen hst)
  case finish =>
    exact forall_txReady_of_txAction hen (txIdx_lt_cap_of_not_sending hst (by decide)) (txAction_done hst)
      (exec_txReady_done hen hst)

/-- Settles O18: the three ways a byte is due, split at ESC; two of them send it. -/
theorem transmitDataBytes : Obligations.TransmitDataBytes := by
  rintro s _ hen hidx rfl hrem
  rw [← byteSent_eq hrem]
  refine ⟨fun hst hp => ?bare, fun hst hp => ?announced, fun hst => ?escaped⟩
  case bare =>
    have hp : ¬ s.pktByte s.txIdx ≤ s.cfg.esc := BitVec.not_le.2 hp
    exact forall_txReady_of_txAction hen (fun _ => hidx) (txAction_sending_data hst hp)
      (exec_txReady_sending_data hen hidx hst hp)
  case announced =>
    exact forall_txReady_of_txAction hen (fun _ => hidx) (txAction_sending_esc hst hp)
      (exec_txReady_sending_esc hen hidx hst hp)
  case escaped =>
    exact forall_txReady_of_txAction hen (fun _ => hidx) (txAction_escWait hst)
      (exec_txReady_escWait hen hidx hst)

end Sys2Proof.Machine

/-! ## The I2C transaction engine (obligations O20 to O27)

One equation per phase of 44_i2c_engine.md, for `I2C_EVENT` at that cursor; the row of the phase answers the same by
`exec_phaseInstr`. A transaction is then a run of these equations: the register pointer is sent in both directions,
and a write sends its value where a read turns the bus around and captures one. -/

namespace Sys2Proof

theorem hiByte_pair (hi lo : Byte) : hiByte (pair hi lo) = hi := by
  exact BitVec.extractLsb'_append_eq_left

theorem phaseInstr_of_illegal {p : BitVec 4} (h : 9 ≤ p) (d : Byte) : phaseInstr p d = .i2cIllegal p d := by
  have hne : ∀ k : BitVec 4, k ≤ 8 → p ≠ k := by
    rintro k hk rfl
    exact absurd (BitVec.le_trans h hk) (by decide)
  simp [phaseInstr, hne]

end Sys2Proof

namespace Sys2Proof.Machine

/-! ### Beginning a transaction -/

section Begin
variable {s : State}

theorem exec_i2cBegin_idle (h : s.i2cBusy = false) (dir : Dir) (reg : Byte) (val : Half) :
    exec (.i2cBegin dir reg val) s = .next (i2cStart dir reg val s) :=
  if_neg (by simp [h])

theorem exec_i2cBegin_busy (h : s.i2cBusy = true) (dir : Dir) (reg : Byte) (val : Half) :
    exec (.i2cBegin dir reg val) s = .refused .i2cBeginWhileBusy :=
  if_pos h

end Begin

/-! ### The event and the row of its cursor -/

section Event
variable {s : State} {p : BitVec 4}

theorem exec_i2cEvent_idle (h : s.i2cBusy = false) (d : Byte) : exec (.i2cEvent d) s = .next s :=
  if_neg (by simp [h])

theorem exec_i2cEvent_of_atPhase (h : s.atPhase p) (d : Byte) :
    exec (.i2cEvent d) s = exec (phaseInstr p d) s := by
  obtain ⟨hbusy, rfl⟩ := h
  exact (exec_phaseInstr hbusy d).symm

/-- The row of the cursor and the event answer what the event answers. -/
theorem forall_phase_of_i2cEvent {r : Result} {d : Byte} (h : s.atPhase p) (hr : exec (.i2cEvent d) s = r) :
    ∀ i ∈ [phaseInstr p d, .i2cEvent d], exec i s = r :=
  List.forall_mem_cons.2 ⟨(exec_i2cEvent_of_atPhase h d).symm.trans hr, List.forall_mem_singleton.2 hr⟩

/-- 44_i2c_engine.md R217: only PH5 and PH7 read the operand. -/
theorem exec_phaseInstr_operand_unused (h5 : p ≠ 5) (h7 : p ≠ 7) (d d' : Byte) :
    exec (phaseInstr p d) s = exec (phaseInstr p d') s := by
  simp only [phaseInstr, if_neg h5, if_neg h7]
  split_ifs <;> rfl

end Event

/-! ### What the event does at each phase -/

section Phases
variable {s : State}

/-- 44_i2c_engine.md R218. -/
theorem exec_i2cEvent_ph0 (h : s.atPhase 0) (d : Byte) :
    exec (.i2cEvent d) s = .next (busStep (.send (addrByte s.cfg.i2cDevAddr .write)) 1 s) :=
  (exec_i2cEvent_of_atPhase h d).trans (if_pos h)

/-- 44_i2c_engine.md R219. -/
theorem exec_i2cEvent_ph1 (h : s.atPhase 1) (d : Byte) :
    exec (.i2cEvent d) s = .next (busStep (.send s.i2cReg) 2 s) :=
  (exec_i2cEvent_of_atPhase h d).trans (if_pos h)

/-- 44_i2c_engine.md R220. -/
theorem exec_i2cEvent_ph2 (h : s.atPhase 2) (d : Byte) :
    exec (.i2cEvent d) s
      = .next (busStep (if s.i2cDir = .write then .send (hiByte s.i2cVal) else .restart) 3 s) := by
  refine ((exec_i2cEvent_of_atPhase h d).trans (if_pos h)).trans ?_
  cases s.i2cDir <;> rfl

/-- 44_i2c_engine.md R221. -/
theorem exec_i2cEvent_ph3 (h : s.atPhase 3) (d : Byte) :
    exec (.i2cEvent d) s = .next (busStep
      (.send (if s.i2cDir = .write then loByte s.i2cVal else addrByte s.cfg.i2cDevAddr .read)) 4 s) := by
  refine ((exec_i2cEvent_of_atPhase h d).trans (if_pos h)).trans ?_
  cases s.i2cDir <;> rfl

/-- 44_i2c_engine.md R222: a write ends here. -/
theorem exec_i2cEvent_ph4_write (h : s.atPhase 4) (hdir : s.i2cDir = .write) (d : Byte) :
    exec (.i2cEvent d) s = .next (busDone s) := by
  refine ((exec_i2cEvent_of_atPhase h d).trans (if_pos h)).trans ?_
  rw [hdir]

/-- 44_i2c_engine.md R222: a read goes on. -/
theorem exec_i2cEvent_ph4_read (h : s.atPhase 4) (hdir : s.i2cDir = .read) (d : Byte) :
    exec (.i2cEvent d) s = .next (busStep .rxEnable 5 s) := by
  refine ((exec_i2cEvent_of_atPhase h d).trans (if_pos h)).trans ?_
  rw [hdir]

/-- 44_i2c_engine.md R223. -/
theorem exec_i2cEvent_ph5 (h : s.atPhase 5) (d : Byte) :
    exec (.i2cEvent d) s = .next (busStep .ack 6 { s with i2cVal := pair d (loByte s.i2cVal) }) :=
  (exec_i2cEvent_of_atPhase h d).trans (if_pos h)

/-- 44_i2c_engine.md R224. -/
theorem exec_i2cEvent_ph6 (h : s.atPhase 6) (d : Byte) :
    exec (.i2cEvent d) s = .next (busStep .rxEnable 7 s) :=
  (exec_i2cEvent_of_atPhase h d).trans (if_pos h)

/-- 44_i2c_engine.md R225. -/
theorem exec_i2cEvent_ph7 (h : s.atPhase 7) (d : Byte) :
    exec (.i2cEvent d) s = .next { s with i2cVal := pair (hiByte s.i2cVal) d, i2cPhase := 8 } :=
  (exec_i2cEvent_of_atPhase h d).trans (if_pos h)

/-- 44_i2c_engine.md R226. -/
theorem exec_i2cEvent_ph8 (h : s.atPhase 8) (d : Byte) : exec (.i2cEvent d) s = .next (busDone s) :=
  (exec_i2cEvent_of_atPhase h d).trans (if_pos h)

/-- 44_i2c_engine.md R227 and R230. -/
theorem exec_i2cEvent_illegal (hbusy : s.i2cBusy = true) (h : 9 ≤ s.i2cPhase) (d : Byte) :
    exec (.i2cEvent d) s = .next { s with
      i2cPhase := 0
      i2cErr := if s.cfg.i2cErrPolicy = .onIllegalCursor then true else s.i2cErr } := by
  rw [exec_i2cEvent_of_atPhase ⟨hbusy, rfl⟩, phaseInstr_of_illegal h]
  refine (if_pos ⟨⟨hbusy, rfl⟩, h⟩).trans ?_
  cases s.cfg.i2cErrPolicy <;> rfl

/-- 30_encoding.md R99 on a row of its own: the write arm of PH0. -/
theorem exec_i2cAddrByte_write (h : s.atPhase 0) :
    exec (.i2cAddrByte s.cfg.i2cDevAddr .write) s
      = .next (busStep (.send (addrByte s.cfg.i2cDevAddr .write)) 1 s) :=
  if_pos ⟨rfl, h⟩

/-- 30_encoding.md R99 on a row of its own: the read arm of PH3. -/
theorem exec_i2cAddrByte_read (h : s.atPhase 3) (hdir : s.i2cDir = .read) :
    exec (.i2cAddrByte s.cfg.i2cDevAddr .read) s
      = .next (busStep (.send (addrByte s.cfg.i2cDevAddr .read)) 4 s) :=
  if_pos ⟨rfl, h, hdir⟩

end Phases

/-! ### The parts of a transaction, 44_i2c_engine.md R229 -/

section Transaction
variable {s : State}

/-- PH0 and PH1 in both directions: the register pointer of the device is set. -/
theorem execAll_begin_pointer (h : s.i2cBusy = false) (dir : Dir) (reg : Byte) (val : Half) (d₀ d₁ : Byte) :
    execAll (.i2cBegin dir reg val :: [d₀, d₁].map .i2cEvent) s = .next { i2cStart dir reg val s with
      i2cPhase := 2
      trace := s.trace
        ++ [BusAction.start, .send (addrByte s.cfg.i2cDevAddr .write), .send reg].map .bus } := by
  calc execAll (.i2cBegin dir reg val :: [d₀, d₁].map .i2cEvent) s
    _ = execAll ([d₀, d₁].map .i2cEvent) (i2cStart dir reg val s) :=
        execAll_cons_next (exec_i2cBegin_idle h dir reg val)
    _ = execAll ([d₁].map .i2cEvent) _ := execAll_cons_next (exec_i2cEvent_ph0 ⟨rfl, rfl⟩ d₀)
    _ = execAll [] _ := execAll_cons_next (exec_i2cEvent_ph1 ⟨rfl, rfl⟩ d₁)
    _ = _ := by simp [busStep, i2cStart, emit]

/-- PH2 to PH4 of a write: the value goes out high byte first, and the transaction ends. -/
theorem execAll_sendValue (h : s.atPhase 2) (hdir : s.i2cDir = .write) (d₂ d₃ d₄ : Byte) :
    execAll ([d₂, d₃, d₄].map .i2cEvent) s = .next { s with
      i2cBusy := false
      i2cPhase := 0
      trace := s.trace
        ++ [BusAction.send (hiByte s.i2cVal), .send (loByte s.i2cVal), .stop].map .bus } := by
  calc execAll ([d₂, d₃, d₄].map .i2cEvent) s
    _ = execAll ([d₃, d₄].map .i2cEvent) _ := execAll_cons_next (exec_i2cEvent_ph2 h d₂)
    _ = execAll ([d₄].map .i2cEvent) _ := execAll_cons_next (exec_i2cEvent_ph3 (by exact ⟨h.1, rfl⟩) d₃)
    _ = execAll [] _ := execAll_cons_next (exec_i2cEvent_ph4_write (by exact ⟨h.1, rfl⟩) (by exact hdir) d₄)
    _ = _ := by simp [busStep, busDone, emit, hdir]

/-- PH2 to PH4 of a read: the bus is turned around. -/
theorem execAll_turnAround (h : s.atPhase 2) (hdir : s.i2cDir = .read) (d₂ d₃ d₄ : Byte) :
    execAll ([d₂, d₃, d₄].map .i2cEvent) s = .next { s with
      i2cPhase := 5
      trace := s.trace
        ++ [BusAction.restart, .send (addrByte s.cfg.i2cDevAddr .read), .rxEnable].map .bus } := by
  calc execAll ([d₂, d₃, d₄].map .i2cEvent) s
    _ = execAll ([d₃, d₄].map .i2cEvent) _ := execAll_cons_next (exec_i2cEvent_ph2 h d₂)
    _ = execAll ([d₄].map .i2cEvent) _ := execAll_cons_next (exec_i2cEvent_ph3 (by exact ⟨h.1, rfl⟩) d₃)
    _ = execAll [] _ := execAll_cons_next (exec_i2cEvent_ph4_read (by exact ⟨h.1, rfl⟩) (by exact hdir) d₄)
    _ = _ := by simp [busStep, emit, hdir]

/-- PH5 to PH8: the two captured bytes make the value, whatever it was, and the transaction ends. -/
theorem execAll_captureValue (h : s.atPhase 5) (d₅ d₆ d₇ d₈ : Byte) :
    execAll ([d₅, d₆, d₇, d₈].map .i2cEvent) s = .next { s with
      i2cVal := pair d₅ d₇
      i2cBusy := false
      i2cPhase := 0
      trace := s.trace ++ [BusAction.ack, .rxEnable, .stop].map .bus } := by
  calc execAll ([d₅, d₆, d₇, d₈].map .i2cEvent) s
    _ = execAll ([d₆, d₇, d₈].map .i2cEvent) _ := execAll_cons_next (exec_i2cEvent_ph5 h d₅)
    _ = execAll ([d₇, d₈].map .i2cEvent) _ := execAll_cons_next (exec_i2cEvent_ph6 (by exact ⟨h.1, rfl⟩) d₆)
    _ = execAll ([d₈].map .i2cEvent) _ := execAll_cons_next (exec_i2cEvent_ph7 (by exact ⟨h.1, rfl⟩) d₇)
    _ = execAll [] _ := execAll_cons_next (exec_i2cEvent_ph8 (by exact ⟨h.1, rfl⟩) d₈)
    _ = _ := by simp [busStep, busDone, emit, hiByte_pair]

theorem execAll_readTransaction (h : s.i2cBusy = false) (reg : Byte) (val : Half)
    (d₀ d₁ d₂ d₃ d₄ d₅ d₆ d₇ d₈ : Byte) :
    execAll (.i2cBegin .read reg val :: [d₀, d₁, d₂, d₃, d₄, d₅, d₆, d₇, d₈].map .i2cEvent) s = .next { s with
      i2cDir := .read
      i2cReg := reg
      i2cVal := pair d₅ d₇
      i2cErr := false
      i2cPhase := 0
      i2cBusy := false
      trace := s.trace ++ [BusAction.start, .send (addrByte s.cfg.i2cDevAddr .write), .send reg, .restart,
        .send (addrByte s.cfg.i2cDevAddr .read), .rxEnable, .ack, .rxEnable, .stop].map .bus } := by
  refine (execAll_append (execAll_begin_pointer h .read reg val d₀ d₁)).trans ?_
  refine (execAll_append (execAll_turnAround ⟨rfl, rfl⟩ rfl d₂ d₃ d₄)).trans ?_
  refine (execAll_captureValue ⟨rfl, rfl⟩ d₅ d₆ d₇ d₈).trans ?_
  simp [i2cStart, emit]

theorem execAll_writeTransaction (h : s.i2cBusy = false) (reg : Byte) (val : Half) (d₀ d₁ d₂ d₃ d₄ : Byte) :
    execAll (.i2cBegin .write reg val :: [d₀, d₁, d₂, d₃, d₄].map .i2cEvent) s = .next { s with
      i2cDir := .write
      i2cReg := reg
      i2cVal := val
      i2cErr := false
      i2cPhase := 0
      i2cBusy := false
      trace := s.trace ++ [BusAction.start, .send (addrByte s.cfg.i2cDevAddr .write), .send reg,
        .send (hiByte val), .send (loByte val), .stop].map .bus } := by
  refine (execAll_append (execAll_begin_pointer h .write reg val d₀ d₁)).trans ?_
  refine (execAll_sendValue ⟨rfl, rfl⟩ rfl d₂ d₃ d₄).trans ?_
  simp [i2cStart, emit]

end Transaction

/-! ### A transaction in flight -/

/-- The cursor of the last event of a transaction: R222 for a write, R226 for a read. -/
def lastPhase : Dir → Nat
  | .write => 4
  | .read => 8

theorem lastPhase_le (dir : Dir) : lastPhase dir ≤ 8 := by cases dir <;> decide

/-- The engine is busy with a transaction of a direction, after `k` of its events. -/
structure InFlight (dir : Dir) (k : Nat) (s : State) : Prop where
  busy : s.i2cBusy = true
  dir : s.i2cDir = dir
  cursor : s.i2cPhase = BitVec.ofNat 4 k

theorem inFlight_i2cStart (dir : Dir) (reg : Byte) (val : Half) (s : State) :
    InFlight dir 0 (i2cStart dir reg val s) :=
  ⟨rfl, rfl, rfl⟩

namespace InFlight
variable {dir : Dir} {k : Nat} {s : State}

theorem atPhase (h : InFlight dir k s) : s.atPhase (BitVec.ofNat 4 k) := ⟨h.busy, h.cursor⟩

/-- An event before the last one advances the cursor by one; only PH4 asks for the direction. -/
theorem exec_i2cEvent (h : InFlight dir k s) (hk : k < lastPhase dir) (d : Byte) :
    ∃ t, exec (.i2cEvent d) s = .next t ∧ InFlight dir (k + 1) t := by
  match k with
  | 0 => exact ⟨_, exec_i2cEvent_ph0 h.atPhase d, h.busy, h.dir, rfl⟩
  | 1 => exact ⟨_, exec_i2cEvent_ph1 h.atPhase d, h.busy, h.dir, rfl⟩
  | 2 => exact ⟨_, exec_i2cEvent_ph2 h.atPhase d, h.busy, h.dir, rfl⟩
  | 3 => exact ⟨_, exec_i2cEvent_ph3 h.atPhase d, h.busy, h.dir, rfl⟩
  | 4 =>
    cases dir with
    | write => exact absurd hk (by decide)
    | read => exact ⟨_, exec_i2cEvent_ph4_read h.atPhase h.dir d, h.busy, h.dir, rfl⟩
  | 5 => exact ⟨_, exec_i2cEvent_ph5 h.atPhase d, h.busy, h.dir, rfl⟩
  | 6 => exact ⟨_, exec_i2cEvent_ph6 h.atPhase d, h.busy, h.dir, rfl⟩
  | 7 => exact ⟨_, exec_i2cEvent_ph7 h.atPhase d, h.busy, h.dir, rfl⟩
  | k + 8 => exact absurd (hk.trans_le (lastPhase_le dir)) (by omega)

theorem execAll_i2cEvents (ds : Bytes) (h : InFlight dir k s) (hk : k + ds.length ≤ lastPhase dir) :
    ∃ t, execAll (ds.map .i2cEvent) s = .next t ∧ InFlight dir (k + ds.length) t := by
  induction ds generalizing k s with
  | nil => exact ⟨s, rfl, h⟩
  | cons d ds ih =>
    rw [List.length_cons, Nat.add_comm ds.length, ← Nat.add_assoc] at hk ⊢
    obtain ⟨u, hd, hu⟩ := h.exec_i2cEvent (by omega) d
    obtain ⟨t, hds, ht⟩ := ih hu hk
    exact ⟨t, (execAll_cons_next hd).trans hds, ht⟩

end InFlight

/-- From I2C_BEGIN, as many events as the direction has before its last one leave the engine busy. -/
theorem execAll_begin_inFlight {s : State} {ds : Bytes} {dir : Dir} (h : s.i2cBusy = false)
    (hds : ds.length ≤ lastPhase dir) (reg : Byte) (val : Half) :
    ∃ t, execAll (.i2cBegin dir reg val :: ds.map .i2cEvent) s = .next t
      ∧ t.i2cBusy = true ∧ t.i2cPhase = BitVec.ofNat 4 ds.length := by
  obtain ⟨t, hrun, ht⟩ :=
    (inFlight_i2cStart dir reg val s).execAll_i2cEvents ds (by rwa [Nat.zero_add])
  rw [Nat.zero_add] at ht
  exact ⟨t, (execAll_cons_next (exec_i2cBegin_idle h dir reg val)).trans hrun, ht.busy, ht.cursor⟩

/-! ### The obligations -/

/-- Settles O20: the call sets up a transaction, or is refused. -/
theorem transactionBegins : Obligations.TransactionBegins := by
  refine fun s dir reg val => ⟨fun hidle => ?_, fun hbusy => exec_i2cBegin_busy hbusy dir reg val⟩
  rw [exec_i2cBegin_idle hidle]
  cases dir <;> rfl

/-- Settles O21: the two sides of the enable, and the operand that most phases do not read. -/
theorem busEventRunsThePhase : Obligations.BusEventRunsThePhase := by
  refine fun s d d' => ⟨fun hidle => exec_i2cEvent_idle hidle d,
    fun hbusy => (exec_phaseInstr hbusy d).symm, fun h5 h7 => ?operand⟩
  cases hbusy : s.i2cBusy with
  | false => rw [exec_i2cEvent_idle hbusy, exec_i2cEvent_idle hbusy]
  | true =>
    rw [← exec_phaseInstr hbusy, ← exec_phaseInstr hbusy]
    exact exec_phaseInstr_operand_unused h5 h7 d d'

/-- Settles O22: PH0 on its three rows and PH1 on its two. -/
theorem addressAndPointerPhases : Obligations.AddressAndPointerPhases := by
  refine fun s d hbusy => ⟨fun hp => ?address, fun hp => ?pointer⟩
  case address =>
    have h : s.atPhase 0 := ⟨hbusy, hp⟩
    have hevent := exec_i2cEvent_ph0 h d
    have hrow := (exec_i2cEvent_of_atPhase h d).symm.trans hevent
    exact List.forall_mem_cons.2 ⟨hrow, List.forall_mem_cons.2
      ⟨hevent, List.forall_mem_singleton.2 (exec_i2cAddrByte_write h)⟩⟩
  case pointer => exact forall_phase_of_i2cEvent ⟨hbusy, hp⟩ (exec_i2cEvent_ph1 ⟨hbusy, hp⟩ d)

/-- Settles O23: PH2 and PH3 choose their bus action by the direction, and PH4 whether to go on. -/
theorem directionPhases : Obligations.DirectionPhases := by
  refine fun s d hbusy => ⟨fun hp => ?ph2, fun hp => ?ph3, fun hp hdir => ?ph4Write, fun hp hdir => ?ph4Read⟩
  case ph2 => exact forall_phase_of_i2cEvent ⟨hbusy, hp⟩ (exec_i2cEvent_ph2 ⟨hbusy, hp⟩ d)
  case ph3 => exact forall_phase_of_i2cEvent ⟨hbusy, hp⟩ (exec_i2cEvent_ph3 ⟨hbusy, hp⟩ d)
  case ph4Write => exact forall_phase_of_i2cEvent ⟨hbusy, hp⟩ (exec_i2cEvent_ph4_write ⟨hbusy, hp⟩ hdir d)
  case ph4Read => exact forall_phase_of_i2cEvent ⟨hbusy, hp⟩ (exec_i2cEvent_ph4_read ⟨hbusy, hp⟩ hdir d)

/-- Settles O24: the four capture phases, none of which asks for the direction. -/
theorem capturePhases : Obligations.CapturePhases := by
  refine fun s d hbusy => ⟨fun hp => ?ph5, fun hp => ?ph6, fun hp => ?ph7, fun hp => ?ph8⟩
  case ph5 => exact forall_phase_of_i2cEvent ⟨hbusy, hp⟩ (exec_i2cEvent_ph5 ⟨hbusy, hp⟩ d)
  case ph6 => exact forall_phase_of_i2cEvent ⟨hbusy, hp⟩ (exec_i2cEvent_ph6 ⟨hbusy, hp⟩ d)
  case ph7 => exact forall_phase_of_i2cEvent ⟨hbusy, hp⟩ (exec_i2cEvent_ph7 ⟨hbusy, hp⟩ d)
  case ph8 => exact forall_phase_of_i2cEvent ⟨hbusy, hp⟩ (exec_i2cEvent_ph8 ⟨hbusy, hp⟩ d)

/-- Settles O25: the row of an illegal cursor is the one the event runs. -/
theorem illegalCursorResets : Obligations.IllegalCursorResets := by
  intro s d hbusy hp
  rw [← phaseInstr_of_illegal hp d]
  exact forall_phase_of_i2cEvent ⟨hbusy, rfl⟩ (exec_i2cEvent_illegal hbusy hp d)

/-- Settles O26: the read arm of PH3 on the row of the address byte. -/
theorem readAddressByte : Obligations.ReadAddressByte :=
  fun _ hbusy hp hdir => exec_i2cAddrByte_read ⟨hbusy, hp⟩ hdir

/-- Settles O27: the complete transactions from their parts, and the incomplete ones by induction on the events. -/
theorem transactionRunsItsPhases : Obligations.TransactionRunsItsPhases := by
  refine fun s reg val ds hidle => ⟨fun hlen => ?read, fun hlen => execAll_begin_inFlight hidle hlen reg val,
    fun hlen => ?write, fun hlen => execAll_begin_inFlight hidle hlen reg val⟩
  case read =>
    match ds, hlen with
    | [d₀, d₁, d₂, d₃, d₄, d₅, d₆, d₇, d₈], _ =>
      exact execAll_readTransaction hidle reg val d₀ d₁ d₂ d₃ d₄ d₅ d₆ d₇ d₈
  case write =>
    match ds, hlen with
    | [d₀, d₁, d₂, d₃, d₄], _ => exact execAll_writeTransaction hidle reg val d₀ d₁ d₂ d₃ d₄

end Sys2Proof.Machine

/-! ## The procedures of the arbitrator (obligation O54)

45_arbitrator.md R242 takes the new holdoff as the slice 4:0 of the CRC-8, where the model truncates it to five bits:
the two are the same value. R243 is the record update of the model. -/

namespace Sys2Proof.Machine

section Arbitrator
variable (s : State)

/-- 45_arbitrator.md R242 with the slice 4:0 of the spec: the CRC-8 register, the holdoff and the timer change. -/
theorem reseedHoldoff_eq_slice :
    reseedHoldoff s = { s with
      crc8Reg := crc8 s.cfg [s.irqHoldoff.setWidth 8]
      irqHoldoff := (crc8 s.cfg [s.irqHoldoff.setWidth 8]).extractLsb' 0 5
      irqTimer := (crc8 s.cfg [s.irqHoldoff.setWidth 8]).extractLsb' 0 5 } := by
  have hslice : ∀ crc : Byte, crc.setWidth 5 = crc.extractLsb' 0 5 :=
    fun _ => BitVec.setWidth_eq_extractLsb' (by decide)
  simp only [reseedHoldoff, runCrc8, hslice]

theorem exec_reseed : exec .reseed s = .next (reseedHoldoff s) := rfl

theorem exec_raise (r : Byte) : exec (.raise r) s = .next (raiseReason r s) := rfl

end Arbitrator

/-- Settles O54: each procedure answers its record, the new holdoff read as a slice. -/
theorem reseedAndRaise : Obligations.ReseedAndRaise := by
  refine fun s r => ⟨?reseed, ?raise⟩
  case reseed => rw [exec_reseed, reseedHoldoff_eq_slice]
  case raise => rw [exec_raise, raiseReason]

end Sys2Proof.Machine

/-! ## The command handlers (obligations O34, O37 to O45 and O47)

Every row of 42_session_fsm.md R175 that runs a frame for this node runs the handler of its command, and a sub-command
row runs its part of the handler; what is left is one equation for each handler of 46_command_dispatch.md. -/

namespace Sys2Proof

open Machine

/-! ### What a command, a sub-command and a quantity stand for -/

/-- What `Dispatch` runs for a class of commands. -/
def Command.handle : Command → State → Result
  | .noOp => handleNoOp
  | .getNodeId => handleGetNodeId
  | .getCommStatus => handleGetCommStatus
  | .getIrqPoll => handleGetIrqPoll
  | .output => handleOutput
  | .getVolts => fun s => telemetryBegin s.cfg.regBusv s
  | .getCurrent => fun s => telemetryBegin s.cfg.regCurrent s
  | .getPower => fun s => telemetryBegin s.cfg.regPower s
  | .shuntConfig => handleShuntConfig
  | .programAddress => badCommand
  | .enumRequest => badCommand
  | .unknown => badCommand

/-- The parameter counts of 30_encoding.md R98; a command that is bad when it is unicast has none. -/
def Command.paramCount : Command → Option Nat
  | .noOp => some 0
  | .getNodeId => some 4
  | .getCommStatus => some 3
  | .getIrqPoll => some 1
  | .output => some 3
  | .getVolts => some 8
  | .getCurrent => some 8
  | .getPower => some 8
  | .shuntConfig => some 4
  | .programAddress => none
  | .enumRequest => none
  | .unknown => none

/-- The code of a sub-command of get/set-output. -/
def OutputSub.code : OutputSub → Byte
  | .clear => 0
  | .set => 1
  | .read => 2

/-- The part of the handler that a sub-command runs. -/
def OutputSub.run : OutputSub → State → Result
  | .clear => outputWrite false
  | .set => outputWrite true
  | .read => outputReadBack

theorem outputSubOf_code (k : OutputSub) : outputSubOf k.code = some k := by cases k <;> rfl

theorem eq_code_of_outputSubOf {b : Byte} {k : OutputSub} (h : outputSubOf b = some k) : b = k.code := by
  unfold outputSubOf at h
  split_ifs at h with h0 h1 h2 <;> cases h
  · exact h0
  · exact h1
  · exact h2

/-- The code of a sub-command of get/set-shunt-config. -/
def ShuntSub.code : ShuntSub → Byte
  | .readConfig => 0
  | .writeConfig => 1
  | .readCal => 2

/-- The part of the handler that a sub-command runs. -/
def ShuntSub.run : ShuntSub → State → Result
  | .readConfig => shuntConfigRead
  | .writeConfig => shuntConfigWrite
  | .readCal => shuntCalRead

theorem shuntSubOf_code (k : ShuntSub) : shuntSubOf k.code = some k := by cases k <;> rfl

theorem shuntSubOf_of_gt {b : Byte} (h : b > 2) : shuntSubOf b = none := by
  have h0 : b ≠ 0 := by bv_omega
  have h1 : b ≠ 1 := by bv_omega
  have h2 : b ≠ 2 := by bv_omega
  rw [shuntSubOf, if_neg h0, if_neg h1, if_neg h2]

/-- The command that reads a quantity. -/
def Quantity.command : Quantity → Command
  | .volts => .getVolts
  | .current => .getCurrent
  | .power => .getPower

/-- The register of the power monitor that holds a quantity. -/
def Quantity.register (c : Cfg) : Quantity → Byte
  | .volts => c.regBusv
  | .current => c.regCurrent
  | .power => c.regPower

end Sys2Proof

namespace Sys2Proof.Machine

/-! ### The handler of a command, 30_encoding.md R98 and 46_command_dispatch.md R257 -/

theorem dispatch_eq_handle (x : Byte) (s : State) : dispatch x s = (commandOf s.cfg x).handle s := by
  unfold dispatch
  cases commandOf s.cfg x <;> rfl

/-- 46_command_dispatch.md R258: the length check is the first thing a handler does. -/
theorem handle_wrongCount {k : Command} {n : Nat} {s : State} (hk : k.paramCount = some n)
    (hne : s.paramLen ≠ n) : k.handle s = badParam s := by
  cases k with
  | noOp | getNodeId | getCommStatus | getIrqPoll | output | getVolts | getCurrent | getPower | shuntConfig =>
    cases hk
    exact if_neg hne
  | programAddress | enumRequest | unknown => cases hk

/-- The parameter region of a frame in S_DECODE ends inside the buffer. -/
theorem decoding_paramLen_le {s : State} {x : Byte} {n : Nat} (h : s.decoding x) (hlen : s.paramLen = n)
    (hn : 1 ≤ n) : 4 + n ≤ s.cfg.cap := by
  obtain ⟨-, -, hidx, -⟩ := h
  unfold State.paramLen State.overhead ovh8 ovh16 at hlen
  split at hlen <;> omega

section OwnRows
variable {s : State} {x : Byte} {k : Command} {r : Result} (h : s.ownCommand x) (hk : commandOf s.cfg x = k)
include h hk

/-- A command's own row runs its handler for a frame addressed to this node. -/
theorem exec_instr_own : exec (k.instr x) s = k.handle s := by
  cases k with
  | noOp | getNodeId | getCommStatus | getIrqPoll | output | getVolts | getCurrent | getPower | shuntConfig =>
    exact unicastCommand_own h hk _
  | programAddress | enumRequest => exact onCommand_addressArms_own h hk ..
  | unknown =>
    have ⟨⟨_, _, _, hx⟩, _⟩ := h
    exact (if_pos hx).trans (unicastCommand_own h hk _)

/-- The event and the rows of the state, the address and the command answer what the command's handler answers. -/
theorem forall_ownRows (hr : k.handle s = r) {rows : List Instr} (hrows : ∀ i ∈ rows, exec i s = r) :
    ∀ i ∈ s.ownRows (k.instr x :: rows), exec i s = r := by
  obtain ⟨hpoll, hdecode, haddr⟩ := decode_own h
  have hdispatch : dispatch x s = r := by rw [dispatch_eq_handle, hk, hr]
  exact List.forall_mem_cons.2 ⟨hpoll.trans hdispatch, List.forall_mem_cons.2 ⟨hdecode.trans hdispatch,
    List.forall_mem_cons.2 ⟨haddr.trans hdispatch, List.forall_mem_cons.2
      ⟨(exec_instr_own h hk).trans hr, hrows⟩⟩⟩⟩

theorem forall_ownRows_command (hr : k.handle s = r) : ∀ i ∈ s.ownRows [k.instr x], exec i s = r :=
  forall_ownRows h hk hr (List.forall_mem_nil _)

theorem forall_ownRows_wrongCount {n : Nat} (hn : k.paramCount = some n) (hne : s.paramLen ≠ n) :
    ∀ i ∈ s.ownRows [k.instr x], exec i s = badParam s :=
  forall_ownRows_command h hk (handle_wrongCount hn hne)

end OwnRows

/-- Settles O37: each row of the table is a command of its count, and the count is checked first. -/
theorem wrongParameterCount : Obligations.WrongParameterCount := by
  intro s x row n hrow h hne
  have hcodes := legal_commands_distinct h.1.1
  suffices hk : ∃ k, commandOf s.cfg x = k ∧ k.instr x = row ∧ k.paramCount = some n by
    obtain ⟨k, hk, rfl, hn⟩ := hk
    exact forall_ownRows_wrongCount h hk hn hne
  simp only [List.mem_cons, List.not_mem_nil, or_false, Prod.mk.injEq] at hrow
  obtain ⟨rfl, rfl, rfl⟩ | ⟨rfl, rfl, rfl⟩ | ⟨rfl, rfl, rfl⟩ | ⟨rfl, rfl, rfl⟩ | ⟨rfl, rfl, rfl⟩
    | ⟨rfl, rfl, rfl⟩ | ⟨rfl, rfl, rfl⟩ | ⟨rfl, rfl, rfl⟩ | ⟨rfl, rfl, rfl⟩ := hrow
  · exact ⟨_, commandOf_cmdNop s.cfg, rfl, rfl⟩
  · exact ⟨_, commandOf_cmdGetNodeId hcodes, rfl, rfl⟩
  · exact ⟨_, commandOf_cmdGetCommStatus hcodes, rfl, rfl⟩
  · exact ⟨_, commandOf_cmdGetIrqPoll hcodes, rfl, rfl⟩
  · exact ⟨_, commandOf_cmdOutput hcodes, rfl, rfl⟩
  · exact ⟨_, commandOf_cmdGetVolts hcodes, rfl, rfl⟩
  · exact ⟨_, commandOf_cmdGetCurrent hcodes, rfl, rfl⟩
  · exact ⟨_, commandOf_cmdGetPower hcodes, rfl, rfl⟩
  · exact ⟨_, commandOf_cmdShuntConfig hcodes, rfl, rfl⟩

/-! ### The commands without sub-commands, R259 to R262 -/

/-- Settles O38. -/
theorem noOpCommand : Obligations.NoOpCommand := by
  intro s h
  have hk := commandOf_cmdNop s.cfg
  by_cases hlen : s.paramLen = 0
  · rw [if_pos hlen]
    exact forall_ownRows_command h hk (if_pos hlen)
  · rw [if_neg hlen]
    exact forall_ownRows_wrongCount h hk rfl hlen

theorem handleGetNodeId_eq {s : State} (hlen : s.paramLen = 4) (hcap : 8 ≤ s.cfg.cap) :
    handleGetNodeId s = .next (finishCommand s.cfg.errNone { s with
      pkt := s.pkt.writeAll .pkt 3
        [loByte s.cfg.moduleId, hiByte s.cfg.moduleId, loByte s.cfg.fwVersion, hiByte s.cfg.fwVersion] }) := by
  have hinside : 3 + 0 + 4 ≤ s.cfg.cap := by omega
  exact (if_pos hlen).trans (if_pos hinside)

/-- Settles O39. -/
theorem getNodeIdCommand : Obligations.GetNodeIdCommand := by
  intro s h
  have hk := commandOf_cmdGetNodeId (legal_commands_distinct h.1.1)
  refine ⟨forall_ownRows_wrongCount h hk rfl, fun hlen => ?_⟩
  have hanswer := handleGetNodeId_eq hlen (decoding_paramLen_le h.1 hlen (by decide))
  exact ⟨_, forall_ownRows_command h hk hanswer, Memory.writeAll_stored ..⟩

/-- 46_command_dispatch.md R261: the counters are read, then the first parameter decides about them. -/
theorem handleGetCommStatus_eq {s : State} (hlen : s.paramLen = 3) (hcap : 7 ≤ s.cfg.cap) :
    handleGetCommStatus s = .next { s with
      pkt := s.pkt.writeAll .pkt 4 [s.crcErrCount, s.timeoutCount]
      crcErrCount := if s.pktByte 3 ≠ 0 then 0 else s.crcErrCount
      timeoutCount := if s.pktByte 3 ≠ 0 then 0 else s.timeoutCount
      lastError := s.cfg.errNone
      sessionState := .respond } := by
  have hread : 3 + 0 < s.cfg.cap := by omega
  have hinside : 3 + 1 + 2 ≤ s.cfg.cap := by omega
  refine withParams_next.2 (.inl ⟨hlen, readParam_next.2 ⟨hread, writeParams_next.2 ⟨hinside, ?_⟩⟩⟩)
  by_cases hclear : s.pktByte 3 ≠ 0
  · simp only [Nat.add_zero, if_pos hclear]
    rfl
  · simp only [Nat.add_zero, if_neg hclear]
    rfl

/-- Settles O40. -/
theorem getCommStatusCommand : Obligations.GetCommStatusCommand := by
  intro s h
  have hk := commandOf_cmdGetCommStatus (legal_commands_distinct h.1.1)
  refine ⟨forall_ownRows_wrongCount h hk rfl, fun hlen => ?_⟩
  have hanswer := handleGetCommStatus_eq hlen (decoding_paramLen_le h.1 hlen (by decide))
  exact ⟨_, forall_ownRows_command h hk hanswer, Memory.writeAll_stored ..⟩

/-- 45_arbitrator.md R246: the reason is answered, then cleared; holdoff and timer stay. -/
theorem handleGetIrqPoll_eq {s : State} (hlen : s.paramLen = 1) (hcap : 5 ≤ s.cfg.cap) :
    handleGetIrqPoll s = .next (finishCommand s.cfg.errNone { s with
      pkt := s.pkt.writeAll .pkt 3 [s.irqReason]
      irqReason := s.cfg.irqNone
      irqRaised := false }) := by
  have hinside : 3 + 0 + 1 ≤ s.cfg.cap := by omega
  exact (if_pos hlen).trans (if_pos hinside)

/-- Settles O41. -/
theorem getIrqPollCommand : Obligations.GetIrqPollCommand := by
  intro s h
  have hk := commandOf_cmdGetIrqPoll (legal_commands_distinct h.1.1)
  refine ⟨forall_ownRows_wrongCount h hk rfl, fun hlen => ?_⟩
  have hanswer := handleGetIrqPoll_eq hlen (decoding_paramLen_le h.1 hlen (by decide))
  exact ⟨_, forall_ownRows_command h hk hanswer, Memory.writeAll_stored ..⟩

/-! ### get/set-output, R263 -/

section Output
variable {s : State} (hlen : s.paramLen = 3) (hcap : 7 ≤ s.cfg.cap)
include hlen hcap

/-- The second parameter selects the part of the handler that runs; no other code is a sub-command. -/
theorem handleOutput_eq :
    handleOutput s = (outputSubOf (s.pktByte 4)).elim (badParam s) fun k => k.run s := by
  have hread : 3 + 1 < s.cfg.cap := by omega
  refine (if_pos hlen).trans ((if_pos hread).trans ?_)
  simp only [Nat.reduceAdd]
  cases outputSubOf (s.pktByte 4) with
  | none => rfl
  | some k => cases k <;> rfl

/-- The row of a sub-command, and the rows of its command, answer what its part of the handler answers. -/
theorem forall_ownRows_outputSub (h : s.ownCommand s.cfg.cmdOutput) {k : OutputSub} {r : Result}
    (hsub : s.pktByte 4 = k.code) (hr : k.run s = r) :
    ∀ i ∈ s.ownRows [.getSetOutput, k.instr], exec i s = r := by
  have hk := commandOf_cmdOutput (legal_commands_distinct h.1.1)
  have hread : 3 + 1 < s.cfg.cap := by omega
  have hsel : outputSubOf (s.pktByte 4) = some k := hsub ▸ outputSubOf_code k
  have hrow : exec k.instr s = k.run s := by
    cases k <;> exact onSubCommand_own h hk hlen hread hsel _
  have hhandle : handleOutput s = r := by rw [handleOutput_eq hlen hcap, hsel, Option.elim_some, hr]
  exact forall_ownRows h hk hhandle (List.forall_mem_singleton.2 (hrow.trans hr))

end Output

section OutputRun
variable {s : State} (hcap : 7 ≤ s.cfg.cap)
include hcap

/-- A bad channel, and for a write a nonzero third parameter, is refused. -/
theorem outputSub_run_bad {k : OutputSub} (hbad : s.pktByte 3 > 1 ∨ (k ≠ .read ∧ s.pktByte 5 ≠ 0)) :
    k.run s = badParam s := by
  have h5 : 5 < s.cfg.cap := by omega
  have hread : 3 + 0 < s.cfg.cap := by omega
  cases k with
  | clear | set => exact outputWrite_next.2 ⟨h5, (if_pos (hbad.imp_right And.right)).symm⟩
  | read =>
    have hch : s.pktByte 3 > 1 := hbad.resolve_right fun hw => hw.1 rfl
    exact (if_pos hread).trans (if_pos hch)

/-- 46_command_dispatch.md R263 with 00_scope.md R11: the level is held and driven. -/
theorem outputWrite_eq (hch : s.pktByte 3 ≤ 1) (hz : s.pktByte 5 = 0) (v : Bool) :
    outputWrite v s = .next { s with
      out0 := if s.pktByte 3 = 0 then v else s.out0
      out1 := if s.pktByte 3 = 1 then v else s.out1
      lastError := s.cfg.errNone
      sessionState := .respond
      trace := s.trace ++ [.outPin (s.pktByte 3) v] } := by
  have h5 : 5 < s.cfg.cap := by omega
  have hgood : ¬ (s.pktByte 3 > 1 ∨ s.pktByte 5 ≠ 0) := not_or.2 ⟨BitVec.not_lt.2 hch, not_not.2 hz⟩
  have hchannel : s.pktByte 3 = 0 ∨ s.pktByte 3 = 1 := by bv_omega
  refine outputWrite_next.2 ⟨h5, ?_⟩
  rw [if_neg hgood, setOut_eq, finishCommand]
  obtain h0 | h1 := hchannel
  · simp [h0]
  · simp [h1]

theorem outputReadBack_eq (hch : s.pktByte 3 ≤ 1) :
    outputReadBack s = .next (finishCommand s.cfg.errNone { s with
      pkt := s.pkt.writeAll .pkt 5 [bitByte (s.outLevel (s.pktByte 3))] }) := by
  have hread : 3 + 0 < s.cfg.cap := by omega
  have hinside : 3 + 2 + 1 ≤ s.cfg.cap := by omega
  have hgood : ¬ s.pktByte 3 > 1 := BitVec.not_lt.2 hch
  exact (if_pos hread).trans ((if_neg hgood).trans (if_pos hinside))

end OutputRun

/-- Settles O42: the sub-command of the second parameter, and the three things a bad parameter can be. -/
theorem outputCommand : Obligations.OutputCommand := by
  rintro s _ _ _ h rfl rfl rfl
  have hk := commandOf_cmdOutput (legal_commands_distinct h.1.1)
  have hroom (hlen : s.paramLen = 3) : 7 ≤ s.cfg.cap := decoding_paramLen_le h.1 hlen (by decide)
  refine ⟨fun hbad => ?bad, fun hlen hch hsub hz => ?write, fun hlen hch hsub => ?read⟩
  case bad =>
    by_cases hlen : s.paramLen = 3
    · refine forall_ownRows_command h hk ((handleOutput_eq hlen (hroom hlen)).trans ?_)
      cases hsub : outputSubOf (s.pktByte 4) with
      | none => rfl
      | some k =>
        refine outputSub_run_bad (hroom hlen) ?_
        rw [eq_code_of_outputSubOf hsub] at hbad
        have hbad := hbad.resolve_left (absurd hlen)
        refine hbad.imp_right fun hrest => ?_
        cases k with
        | clear | set => exact ⟨by decide, (hrest.resolve_left (by decide)).2⟩
        | read => exact absurd hrest (by simp [OutputSub.code])
    · exact forall_ownRows_wrongCount h hk rfl hlen
  case write =>
    have hanswer := outputWrite_eq (hroom hlen) hch hz
    have hlevel : s.pktByte 4 = 0 ∨ s.pktByte 4 = 1 := by bv_omega
    obtain h0 | h1 := hlevel
    · rw [h0]
      exact forall_ownRows_outputSub (k := .clear) hlen (hroom hlen) h h0 (hanswer false)
    · rw [h1]
      exact forall_ownRows_outputSub (k := .set) hlen (hroom hlen) h h1 (hanswer true)
  case read =>
    have hanswer := outputReadBack_eq (hroom hlen) hch
    exact ⟨_, forall_ownRows_outputSub (k := .read) hlen (hroom hlen) h hsub hanswer,
      Memory.writeAll_stored ..⟩

/-! ### Broadcast commands, R269 and R270 -/

/-- R269 and R270: the enumeration request is the one command with an effect when it is broadcast. -/
theorem broadcastAction_eq (x : Byte) (s : State) :
    broadcastAction x s =
      if x = s.cfg.cmdEnumRequest then
        { s with
          irqReason := s.cfg.irqEnum
          irqRaised := true
          irqTimer := s.irqHoldoff
          sessionState := .finish }
      else { s with sessionState := .finish } := by
  unfold broadcastAction
  split <;> rfl

theorem addressArms_broadcast {s : State} {inMode : Byte → Result} {onBroadcast onUnicast : Result}
    (hcap : 1 < s.cfg.cap) (hmode : s.addrProgEn = false) (hbroadcast : s.pktByte 1 = broadcast) :
    addressArms s inMode onBroadcast onUnicast = onBroadcast :=
  (if_pos hcap).trans ((if_neg (by simp [hmode])).trans (if_pos hbroadcast))

section Broadcast
variable {s : State} {x : Byte} (h : s.decoding x) (hmode : s.addrProgEn = false)
  (hbroadcast : s.pktByte 1 = broadcast)
include h hmode hbroadcast

/-- The row of a command runs its broadcast arm for a frame addressed to every node. -/
theorem onCommand_addressArms_broadcast {m : String} {k : Command} (hk : commandOf s.cfg x = k)
    (inMode : Byte → Result) (onBroadcast onUnicast : Result) :
    onCommand m k s (addressArms s inMode onBroadcast onUnicast) = onBroadcast := by
  obtain ⟨h1, h2⟩ := decoding_cap h
  obtain ⟨-, hp, -, rfl⟩ := h
  exact (if_pos hp).trans ((if_pos h2).trans ((if_pos hk).trans (addressArms_broadcast h1 hmode hbroadcast)))

theorem exec_commandOf_instr_broadcast :
    exec ((commandOf s.cfg x).instr x) s = .next (broadcastAction x s) := by
  have hother (hk : commandOf s.cfg x ≠ .enumRequest) :
      broadcastAction x s = { s with sessionState := .finish } := by
    refine (broadcastAction_eq x s).trans (if_neg fun hx => hk ?_)
    rw [hx]
    exact commandOf_cmdEnumRequest (legal_commands_distinct h.1)
  cases hk : commandOf s.cfg x with
  | enumRequest =>
    rw [broadcastAction_eq, if_pos (eq_cmdEnumRequest hk)]
    exact onCommand_addressArms_broadcast h hmode hbroadcast hk ..
  | unknown =>
    have ⟨_, _, _, hx⟩ := h
    rw [hother (by simp [hk])]
    exact (if_pos hx).trans (onCommand_addressArms_broadcast h hmode hbroadcast hk ..)
  | noOp | getNodeId | getCommStatus | getIrqPoll | output | getVolts | getCurrent | getPower | shuntConfig
  | programAddress =>
    rw [hother (by simp [hk])]
    exact onCommand_addressArms_broadcast h hmode hbroadcast hk ..

theorem exec_addrBroadcast_outsideMode : exec .addrBroadcast s = .next (broadcastAction x s) := by
  obtain ⟨h1, h2⟩ := decoding_cap h
  obtain ⟨-, hp, -, rfl⟩ := h
  have hm : ¬ s.addrProgEn = true := by simp [hmode]
  exact (if_pos hp).trans ((if_pos h1).trans ((if_pos hbroadcast).trans ((if_neg hm).trans (if_pos h2))))

end Broadcast

/-- Settles O34: the event and the rows of the state, the address and the command run the broadcast action. -/
theorem broadcastCommands : Obligations.BroadcastCommands := by
  intro s x h hmode hbroadcast
  have ⟨_, hp, _⟩ := h
  have hdecode : exec .pollSDecode s = .next (broadcastAction x s) :=
    (exec_poll_of_polls hp).symm.trans (exec_poll_broadcast h hmode hbroadcast)
  rw [← broadcastAction_eq]
  exact forall_poll_of_polls hp hdecode (List.forall_mem_cons.2
    ⟨exec_addrBroadcast_outsideMode h hmode hbroadcast,
      List.forall_mem_singleton.2 (exec_commandOf_instr_broadcast h hmode hbroadcast)⟩)

/-! ### The procedure of R268 -/

/-- Settles O47. -/
theorem programAddressPersists : Obligations.ProgramAddressPersists := by
  intro s a
  exact ⟨fun ha => ⟨_, if_neg ha, Memory.write_stored ..⟩, fun ha => if_pos ha⟩

/-! ### The end of a foreground hold, 42_session_fsm.md R181 -/

section Resume
variable {s : State}

/-- With the engine free, the poll of a hold kicks the watchdog and resumes the handler in the state held. -/
theorem forall_row_hold_done (hfg : s.fgCont = .fgNone) (hbusy : s.i2cBusy = false) {r : Result}
    (hr : resumeHandler (emit .wdtKick s) = r) :
    ∀ i ∈ [Instr.poll, .pollFgI2cWait], exec i { s with fgCont := .fgI2cWait } = r := by
  have hreleased : emit .wdtKick s = { emit .wdtKick { s with fgCont := .fgI2cWait } with fgCont := .fgNone } := by
    simp only [emit, ← hfg]
  have hrow : exec .pollFgI2cWait { s with fgCont := .fgI2cWait } = r := by
    rw [← hr, hreleased]
    exact exec_pollFgI2cWait_done rfl hbusy
  exact List.forall_mem_cons.2 ⟨(exec_poll_of_hold rfl).trans hrow, List.forall_mem_singleton.2 hrow⟩

theorem resumeHandler_shuntConfig (hcap : 2 < s.cfg.cap) (hk : commandOf s.cfg (s.pktByte 2) = .shuntConfig) :
    resumeHandler s = commandOk s := by
  refine (if_pos hcap).trans ?_
  simp only [hk]

end Resume

/-! ### Telemetry, R264 to R266 and R271 -/

section Telemetry
variable {s : State} {k : Quantity}

theorem handle_command_eq_telemetryBegin : k.command.handle s = telemetryBegin (k.register s.cfg) s := by
  cases k <;> rfl

theorem paramCount_command : k.command.paramCount = some 8 := by cases k <;> rfl

theorem resumeHandler_telemetry (hcap : 2 < s.cfg.cap) (hk : commandOf s.cfg (s.pktByte 2) = k.command) :
    resumeHandler s = telemetryFinish k s := by
  refine (if_pos hcap).trans ?_
  simp only [hk]
  cases k <;> rfl

end Telemetry

theorem telScale_power (c : Cfg) (v : Byte) (i : Half) : telScale c .power v i = 25 * telScale c .current v i := by
  unfold telScale
  cases c.arithmetic <;> rfl

/-- Settles O43: the read is begun, and after the hold it is packed. -/
theorem telemetryCommands : Obligations.TelemetryCommands := by
  intro s x reg row k hdec hrow
  have hcodes := legal_commands_distinct hdec.1
  have hquantity : commandOf s.cfg x = k.command ∧ reg = k.register s.cfg ∧ row = k.command.instr x := by
    simp only [List.mem_cons, List.not_mem_nil, or_false, Prod.mk.injEq] at hrow
    obtain ⟨rfl, rfl, rfl, rfl⟩ | ⟨rfl, rfl, rfl, rfl⟩ | ⟨rfl, rfl, rfl, rfl⟩ := hrow
    · exact ⟨commandOf_cmdGetVolts hcodes, rfl, rfl⟩
    · exact ⟨commandOf_cmdGetCurrent hcodes, rfl, rfl⟩
    · exact ⟨commandOf_cmdGetPower hcodes, rfl, rfl⟩
  obtain ⟨hk, rfl, rfl⟩ := hquantity
  refine ⟨fun h hlen => ?wrongCount, fun h hlen hbusy => ?begin, ?resume, telScale_power ..⟩
  case wrongCount => exact forall_ownRows_wrongCount h hk paramCount_command hlen
  case begin =>
    exact forall_ownRows_command h hk
      (handle_command_eq_telemetryBegin.trans (telemetryBegin_next.2 (.inl ⟨hlen, hbusy, rfl⟩)))
  case resume =>
    rintro _ rfl hlen hbusy
    have hcap := decoding_paramLen_le hdec hlen (by decide)
    obtain ⟨-, ⟨hfg, -⟩, -, rfl⟩ := hdec
    have h2 : 2 < s.cfg.cap := by omega
    have hinside : 10 ≤ s.cfg.cap := by omega
    have hanswer := (resumeHandler_telemetry (s := emit .wdtKick s) h2 hk).trans
      (telemetryFinish_next.2 ⟨hinside, rfl⟩)
    exact ⟨_, forall_row_hold_done hfg hbusy hanswer, Memory.writeAll_stored ..⟩

/-! ### get/set-shunt-config, R267 -/

section Shunt
variable {s : State} (hlen : s.paramLen = 4) (hcap : 8 ≤ s.cfg.cap)
include hlen hcap

/-- The first parameter selects the part of the handler that runs; no other code is a sub-command. -/
theorem handleShuntConfig_eq :
    handleShuntConfig s = (shuntSubOf (s.pktByte 3)).elim (badParam s) fun k => k.run s := by
  have hread : 3 + 0 < s.cfg.cap := by omega
  refine (if_pos hlen).trans ((if_pos hread).trans ?_)
  rw [Nat.add_zero]
  cases shuntSubOf (s.pktByte 3) with
  | none => rfl
  | some k => cases k <;> rfl

/-- The row of a sub-command, and the rows of its command, answer what its part of the handler answers. -/
theorem forall_ownRows_shuntSub (h : s.ownCommand s.cfg.cmdShuntConfig) {k : ShuntSub} {r : Result}
    (hsub : s.pktByte 3 = k.code) (hr : k.run s = r) :
    ∀ i ∈ s.ownRows [.getSetShuntConfig, k.instr], exec i s = r := by
  have hk := commandOf_cmdShuntConfig (legal_commands_distinct h.1.1)
  have hread : 3 + 0 < s.cfg.cap := by omega
  have hsel : shuntSubOf (s.pktByte 3) = some k := hsub ▸ shuntSubOf_code k
  have hrow : exec k.instr s = k.run s := by
    cases k <;> exact onSubCommand_own h hk hlen hread hsel _
  have hhandle : handleShuntConfig s = r := by rw [handleShuntConfig_eq hlen hcap, hsel, Option.elim_some, hr]
  exact forall_ownRows h hk hhandle (List.forall_mem_singleton.2 (hrow.trans hr))

end Shunt

theorem shuntConfigRead_eq {s : State} (hcap : 8 ≤ s.cfg.cap) :
    shuntConfigRead s = .next (finishCommand s.cfg.errNone { s with
      pkt := s.pkt.writeAll .pkt 4 [s.cfgVrating, loByte s.cfgIrating, hiByte s.cfgIrating] }) := by
  have hinside : 3 + 1 + 3 ≤ s.cfg.cap := by omega
  exact if_pos hinside

theorem shuntCalRead_eq {s : State} (hcap : 8 ≤ s.cfg.cap) :
    shuntCalRead s = .next (finishCommand s.cfg.errNone { s with
      pkt := s.pkt.writeAll .pkt 4 [loByte s.cfgCal, hiByte s.cfgCal] }) := by
  have hinside : 3 + 1 + 2 ≤ s.cfg.cap := by omega
  exact if_pos hinside

/-- Settles O44: the two reads store what they answer, and the errors are a wrong count and a code without a row. -/
theorem shuntConfigReads : Obligations.ShuntConfigReads := by
  rintro s _ h rfl
  have hk := commandOf_cmdShuntConfig (legal_commands_distinct h.1.1)
  have hroom (hlen : s.paramLen = 4) : 8 ≤ s.cfg.cap := decoding_paramLen_le h.1 hlen (by decide)
  refine ⟨fun hbad => ?bad, fun hlen hsub => ?config, fun hlen hsub => ?cal⟩
  case bad =>
    by_cases hlen : s.paramLen = 4
    · have hnone := shuntSubOf_of_gt (hbad.resolve_left (absurd hlen))
      refine forall_ownRows_command h hk ((handleShuntConfig_eq hlen (hroom hlen)).trans ?_)
      rw [hnone]
      rfl
    · exact forall_ownRows_wrongCount h hk rfl hlen
  case config =>
    have hanswer := shuntConfigRead_eq (hroom hlen)
    exact ⟨_, forall_ownRows_shuntSub (k := .readConfig) hlen (hroom hlen) h hsub hanswer,
      Memory.writeAll_stored ..⟩
  case cal =>
    have hanswer := shuntCalRead_eq (hroom hlen)
    exact ⟨_, forall_ownRows_shuntSub (k := .readCal) hlen (hroom hlen) h hsub hanswer,
      Memory.writeAll_stored ..⟩

/-- The ratings of a write with their calibration constant, taken and persisted. -/
def takeRatings (v : Byte) (r : Half) (s : State) : State :=
  persistRatings v r { s with cfgVrating := v, cfgIrating := r, cfgCal := calConst s.cfg v r }

section RatingWrite
variable {s : State} {v : Byte} {r : Half}

theorem shuntConfigWrite_eq (hcap : 8 ≤ s.cfg.cap) (hv : v = s.pktByte 4)
    (hr : r = s.pktByte 6 ++ s.pktByte 5) :
    shuntConfigWrite s =
      if ratingsInRange v r then
        beginTransaction .write s.cfg.regCal (calConst s.cfg v r) (takeRatings v r s) hold
      else badParam s := by
  subst hv hr
  have h4 : 3 + 1 < s.cfg.cap := by omega
  have h5 : 3 + 2 < s.cfg.cap := by omega
  have h6 : 3 + 3 < s.cfg.cap := by omega
  exact (if_pos h4).trans ((if_pos h5).trans (if_pos h6))

/-- 46_command_dispatch.md R267: store writes first, then the bus transaction that the foreground waits for. -/
theorem beginTransaction_takeRatings (hbusy : s.i2cBusy = false) (reg : Byte) (val : Half) :
    beginTransaction .write reg val (takeRatings v r s) hold = .next { s with
      cfgVrating := v
      cfgIrating := r
      cfgCal := calConst s.cfg v r
      store := s.store.writeAll .store s.cfg.cfgOffset
        [loByte s.cfg.cfgSignature, hiByte s.cfg.cfgSignature, v, 0, loByte r, hiByte r]
      i2cDir := .write
      i2cReg := reg
      i2cVal := val
      i2cErr := false
      i2cPhase := 0
      i2cBusy := true
      fgCont := .fgI2cWait
      trace := s.trace ++
        [.storeWrite s.cfg.cfgOffset (loByte s.cfg.cfgSignature),
         .storeWrite (s.cfg.cfgOffset + 1) (hiByte s.cfg.cfgSignature),
         .storeWrite (s.cfg.cfgOffset + 2) v,
         .storeWrite (s.cfg.cfgOffset + 3) 0,
         .storeWrite (s.cfg.cfgOffset + 4) (loByte r),
         .storeWrite (s.cfg.cfgOffset + 5) (hiByte r),
         .bus .start] } := by
  rw [takeRatings, persistRatings_eq]
  refine beginTransaction_next.2 ⟨hbusy, hold_next.2 ?_⟩
  simp [i2cStart, emit]

end RatingWrite

/-- 93_implementation_defined.md U17: the stand-in is not 0 there, and the open function is kept from it. -/
theorem calConst_ne_zero (c : Cfg) : calConst c 50 100 ≠ 0 := by
  unfold calConst
  cases c.arithmetic with
  | standIn => decide
  | free n =>
    dsimp only
    split
    case isTrue => decide
    case isFalse hopen => exact fun hzero => hopen ⟨rfl, rfl, hzero⟩

end Sys2Proof.Machine

namespace Sys2Proof

open Machine

/-- Settles O45: the bounds decide whether the ratings are taken, and the hold ends in the answer. -/
theorem shuntConfigWrite : Obligations.ShuntConfigWrite := by
  intro s v r hdec hv hr
  have hroom (hlen : s.paramLen = 4) : 8 ≤ s.cfg.cap := decoding_paramLen_le hdec hlen (by decide)
  refine ⟨fun h hlen hsub hout => ?outside, fun h hlen hsub hbusy hv1 hv80 hr1 hr200 => ?inside, ?resume,
    calConst_ne_zero s.cfg⟩
  case outside =>
    have hrange : ¬ ratingsInRange v r := by
      rintro ⟨hv1, hv80, hr1, hr200⟩
      rcases hout with h | h | h | h
      · exact BitVec.not_le.2 h hv1
      · exact BitVec.not_le.2 h hv80
      · exact BitVec.not_le.2 h hr1
      · exact BitVec.not_le.2 h hr200
    have hanswer := (shuntConfigWrite_eq (hroom hlen) hv hr).trans (if_neg hrange)
    exact forall_ownRows_shuntSub (k := .writeConfig) hlen (hroom hlen) h hsub hanswer
  case inside =>
    have hrange : ratingsInRange v r := ⟨hv1, hv80, hr1, hr200⟩
    have hanswer := (shuntConfigWrite_eq (hroom hlen) hv hr).trans
      ((if_pos hrange).trans (beginTransaction_takeRatings hbusy ..))
    exact ⟨_, forall_ownRows_shuntSub (k := .writeConfig) hlen (hroom hlen) h hsub hanswer,
      Memory.writeAll_stored ..⟩
  case resume =>
    rintro hbusy _ rfl
    obtain ⟨-, hcap⟩ := decoding_cap hdec
    obtain ⟨hl, ⟨hfg, -⟩, -, hcmd⟩ := hdec
    have hk : commandOf s.cfg (s.pktByte 2) = .shuntConfig :=
      hcmd ▸ commandOf_cmdShuntConfig (legal_commands_distinct hl)
    exact forall_row_hold_done hfg hbusy (resumeHandler_shuntConfig hcap hk)

end Sys2Proof

/-! ## Reset (obligations O55 and O56)

Power-up is one record, so 70_reset_and_hazards.md R311 is read off its fields. R313 to R315 turn on what the store
holds: one equation for each case of the signature, and the seed of the holdoff as the slice 4:0 of the address. -/

namespace Sys2Proof.Machine

section Boot
variable {c : Cfg} {store : Memory}

theorem bootRatings_of_signature (h : storedSignature c store = c.cfgSignature) :
    bootRatings c store =
      (store.read .store (c.cfgOffset + 2),
       store.read .store (c.cfgOffset + 5) ++ store.read .store (c.cfgOffset + 4)) :=
  if_pos h

theorem bootRatings_of_no_signature (h : storedSignature c store ≠ c.cfgSignature) :
    bootRatings c store = (c.defaultVrating, c.defaultIrating) :=
  if_neg h

end Boot

/-- 45_arbitrator.md R241 with the slice of the spec, where the model truncates the address. -/
theorem holdoffSeed_eq_slice (a : Byte) : holdoffSeed a = a.extractLsb' 0 5 :=
  BitVec.setWidth_eq_extractLsb' (by decide)

/-- Settles O55: the fields of the power-up record. -/
theorem powerUpRegisters : Obligations.PowerUpRegisters := by
  rintro c store u _ rfl
  and_intros <;> rfl

/-- Settles O56: the two cases of the signature decide the ratings; the address is R314's choice, and seeds the
holdoff and the timer. -/
theorem powerUpLoadsTheStore : Obligations.PowerUpLoadsTheStore := by
  rintro c store u _ rfl
  refine ⟨fun hsig => ?record, fun hsig => ?defaults, rfl, rfl, holdoffSeed_eq_slice _, rfl, rfl, rfl, rfl, rfl⟩
  case record => exact Prod.mk.inj (bootRatings_of_signature hsig)
  case defaults => exact Prod.mk.inj (bootRatings_of_no_signature hsig)

end Sys2Proof.Machine

/-! ## Encoding (obligations O1, O2, O3)

One lemma per code space says what its decoder reads from a word of the encoder's layout, whatever follows; O2 is then
that each row's values select the row (30_encoding.md R91 to R105). For O3 each classifier gives a row only where its
operand is one the row can have, and each space's decoder gives no other row. -/

namespace Sys2Proof

open Machine

/-! ### The control bytes, distinct by 00_scope.md R7 (c) -/

section Headers
variable {c : Cfg} (h : c.headers.Nodup)
include h

theorem controlOf_hdrAck8 : controlOf c c.hdrAck8 = .ack8 := by
  simp only [Cfg.headers, List.nodup_cons, List.mem_cons, not_or] at h
  obtain ⟨⟨_, h1, _⟩, ⟨h2, _⟩, _⟩ := h
  simp [controlOf, Ne.symm h1, Ne.symm h2]

theorem controlOf_hdrNak8 : controlOf c c.hdrNak8 = .nak8 := by
  simp only [Cfg.headers, List.nodup_cons, List.mem_cons, not_or] at h
  obtain ⟨⟨_, _, h1, _⟩, ⟨_, h2, _⟩, ⟨h3, _⟩, _⟩ := h
  simp [controlOf, Ne.symm h1, Ne.symm h2, Ne.symm h3]

theorem controlOf_hdrAck16 : controlOf c c.hdrAck16 = .ack16 := by
  simp only [Cfg.headers, List.nodup_cons, List.mem_cons, not_or] at h
  obtain ⟨⟨_, _, _, h1, _⟩, ⟨_, _, h2, _⟩, ⟨_, h3, _⟩, ⟨h4, _⟩, _⟩ := h
  simp [controlOf, Ne.symm h1, Ne.symm h2, Ne.symm h3, Ne.symm h4]

theorem controlOf_hdrNak16 : controlOf c c.hdrNak16 = .nak16 := by
  simp only [Cfg.headers, List.nodup_cons, List.mem_cons, not_or] at h
  obtain ⟨⟨_, _, _, _, h1, _⟩, ⟨_, _, _, h2, _⟩, ⟨_, _, h3, _⟩, ⟨_, h4, _⟩, ⟨h5, _⟩, _⟩ := h
  simp [controlOf, Ne.symm h1, Ne.symm h2, Ne.symm h3, Ne.symm h4, Ne.symm h5]

theorem controlOf_hdrIrq16 : controlOf c c.hdrIrq16 = .irq16 := by
  simp only [Cfg.headers, List.nodup_cons, List.mem_cons, not_or] at h
  obtain ⟨⟨_, _, _, _, _, h1, _⟩, ⟨_, _, _, _, h2, _⟩, ⟨_, _, _, h3, _⟩, ⟨_, _, h4, _⟩, ⟨_, h5, _⟩,
    ⟨h6, _⟩, _⟩ := h
  simp [controlOf, Ne.symm h1, Ne.symm h2, Ne.symm h3, Ne.symm h4, Ne.symm h5, Ne.symm h6]

end Headers

theorem controlOf_of_not_mem {c : Cfg} {b : Byte} (h : b ∉ c.headers) : controlOf c b = .other := by
  simp only [Cfg.headers, List.mem_cons, List.not_mem_nil, or_false, not_or] at h
  simp [controlOf, h]

/-! ### What the decoder of each code space reads -/

section Words
variable {c : Cfg} (rest : Bytes)

theorem decode_rxWord_append {ready esc : Bool} {st : RxState} {b : Byte} {k : RxClass}
    (hk : rxClass c ready st esc b = k) :
    decode c (1 :: bitCode ready :: st.code :: bitCode esc :: b :: rest) = .instr (k.instr b) rest := by
  simp [decode, decodeRx, hk]

theorem decode_txWord_append {st : TxState} {p : Byte} {k : TxAction} (hk : txAction c st p = k) :
    decode c (2 :: st.code :: p :: rest) = .instr k.instr rest := by
  simp [decode, decodeTx, hk]

theorem decode_controlWord_append {b : Byte} {k : Control} (hk : controlOf c b = k) :
    decode c (3 :: b :: rest) = .instr (k.instr b) rest := by
  simp [decode, decodeControl, hk]

theorem decode_commandWord_append {x : Byte} {k : Command} (hk : commandOf c x = k) :
    decode c (5 :: x :: rest) = .instr (k.instr x) rest := by
  simp [decode, decodeCommand, hk]

theorem decode_outputSubWord_append (k : OutputSub) : decode c (7 :: k.code :: rest) = .instr k.instr rest := by
  simp [decode, decodeOutputSub, outputSubOf_code]

theorem decode_shuntSubWord_append (k : ShuntSub) : decode c (8 :: k.code :: rest) = .instr k.instr rest := by
  simp [decode, decodeShuntSub, shuntSubOf_code]

theorem decode_sessionWord_append (f : FgCont) (st : SessionState) :
    decode c (9 :: f.code :: st.code :: rest) = .instr (pollInstr f st) rest := by
  simp [decode, decodeSession]

theorem decode_phaseWord_append (p : BitVec 4) (d : Byte) :
    decode c (10 :: p.setWidth 8 :: d :: rest) = .instr (phaseInstr p d) rest := by
  have hp : p.setWidth 8 < 16 := by bv_omega
  have hback : (p.setWidth 8).setWidth 4 = p := by simp
  simpa [decode, decodePhase, hback] using hp

theorem decode_busAddressWord_append (r : Dir) :
    decode c (11 :: addrByte c.i2cDevAddr r :: rest) = .instr (.i2cAddrByte c.i2cDevAddr r) rest := by
  simp [decode, decodeBusAddress, addrByteFields_addrByte]

/-- A buffer operand of at most 255 bytes comes back whole, and what follows it is left. -/
theorem takeBuffer_bufferCode (k : Bytes → Bytes → Decoded) {buf : Bytes} (h : buf.length ≤ 255) :
    takeBuffer k (bufferCode buf ++ rest) = k buf rest := by
  have hlen : (BitVec.ofNat 8 buf.length).toNat = buf.length := by
    rw [BitVec.toNat_ofNat]
    omega
  simp [takeBuffer, bufferCode, hlen]

theorem decode_crc8Word_append {buf : Bytes} (h : buf.length ≤ 255) :
    decode c (12 :: 6 :: (bufferCode buf ++ rest)) = .instr (.crc8 buf) rest :=
  takeBuffer_bufferCode rest (fun buf more => .instr (.crc8 buf) more) h

theorem decode_crc16Word_append (seed : Half) {buf : Bytes} (h : buf.length ≤ 255) :
    decode c (12 :: 7 :: loByte seed :: hiByte seed :: (bufferCode buf ++ rest)) = .instr (.crc16 seed buf) rest := by
  refine (takeBuffer_bufferCode rest
    (fun buf more => .instr (.crc16 (pair (hiByte seed) (loByte seed)) buf) more) h).trans ?_
  rw [pair_hiByte_loByte]

theorem dirOf_bit (dir : Dir) : dirOf (dir.bit.setWidth 8) = some dir := by cases dir <;> decide

theorem decode_i2cBeginWord_append (dir : Dir) (reg : Byte) (val : Half) :
    decode c (12 :: 8 :: dir.bit.setWidth 8 :: reg :: loByte val :: hiByte val :: rest)
      = .instr (.i2cBegin dir reg val) rest := by
  simp [decode, decodeOperation, dirOf_bit, pair_hiByte_loByte]

end Words

/-! ### Decode of encode -/

/-- Settles O2: each row's word is one of its code space, and its values select the row. -/
theorem decodeOfEncodeIsTheInstruction : Obligations.DecodeOfEncodeIsTheInstruction := by
  intro c i rest hl hwf
  obtain ⟨hstartEnd, hstartEsc, hendEsc⟩ := legal_marks_distinct hl
  have ⟨_, _, hheaders, hcodes, _⟩ := hl
  cases i with
  -- wire_rx
  | rxDrop b => exact decode_rxWord_append (ready := true) (st := .idle) (esc := false) rest rfl
  | rxEscaped b => exact decode_rxWord_append (ready := false) (st := .assembling) (esc := true) rest rfl
  | rxStart =>
    exact decode_rxWord_append (ready := false) (st := .idle) (esc := false) (k := .start) rest (by simp [rxClass])
  | rxIgnore b =>
    have hb : b ≠ c.frameStart := of_decide_eq_true hwf
    exact decode_rxWord_append (ready := false) (st := .idle) (esc := false) (k := .ignore) rest (by simp [rxClass, hb])
  | rxEnd =>
    exact decode_rxWord_append (ready := false) (st := .assembling) (esc := false) (k := .endMark) rest
      (by simp [rxClass, hstartEnd.symm])
  | rxEsc =>
    exact decode_rxWord_append (ready := false) (st := .assembling) (esc := false) (k := .esc) rest
      (by simp [rxClass, hstartEsc.symm, hendEsc.symm])
  | rxData b =>
    have hb : b ∉ [c.frameStart, c.frameEnd, c.esc] := of_decide_eq_true hwf
    simp only [List.mem_cons, List.not_mem_nil, or_false, not_or] at hb
    exact decode_rxWord_append (ready := false) (st := .assembling) (esc := false) (k := .data) rest
      (by simp [rxClass, hb])
  -- wire_tx
  | txStartMark => exact decode_txWord_append (st := .idle) rest rfl
  | txData =>
    have hesc : c.esc < 0xFF := of_decide_eq_true hwf
    exact decode_txWord_append (st := .sending) rest (if_neg (BitVec.not_le.2 hesc))
  | txEsc => exact decode_txWord_append (st := .sending) rest (if_pos (BitVec.le_refl c.esc))
  | txEscaped => exact decode_txWord_append (st := .escWait) rest rfl
  | txEndMark => exact decode_txWord_append (st := .done) rest rfl
  -- control_byte
  | req8 => exact decode_controlWord_append rest (controlOf_hdrReq8 c)
  | req16 => exact decode_controlWord_append rest (controlOf_hdrReq16 hl)
  | ack8 => exact decode_controlWord_append rest (controlOf_hdrAck8 hheaders)
  | nak8 => exact decode_controlWord_append rest (controlOf_hdrNak8 hheaders)
  | ack16 => exact decode_controlWord_append rest (controlOf_hdrAck16 hheaders)
  | nak16 => exact decode_controlWord_append rest (controlOf_hdrNak16 hheaders)
  | irq16 => exact decode_controlWord_append rest (controlOf_hdrIrq16 hheaders)
  | hdrOther b => exact decode_controlWord_append rest (controlOf_of_not_mem (of_decide_eq_true hwf))
  -- address_byte
  | addrBroadcast => rfl
  | addrUnicast a =>
    have ha : a ≠ broadcast := of_decide_eq_true hwf
    exact congrArg (Decoded.instr · rest) (if_neg ha)
  -- command
  | noOp => exact decode_commandWord_append rest (commandOf_cmdNop c)
  | getNodeId => exact decode_commandWord_append rest (commandOf_cmdGetNodeId hcodes)
  | getCommStatus => exact decode_commandWord_append rest (commandOf_cmdGetCommStatus hcodes)
  | getIrqPoll => exact decode_commandWord_append rest (commandOf_cmdGetIrqPoll hcodes)
  | getSetOutput => exact decode_commandWord_append rest (commandOf_cmdOutput hcodes)
  | getVolts => exact decode_commandWord_append rest (commandOf_cmdGetVolts hcodes)
  | getCurrent => exact decode_commandWord_append rest (commandOf_cmdGetCurrent hcodes)
  | getPower => exact decode_commandWord_append rest (commandOf_cmdGetPower hcodes)
  | getSetShuntConfig => exact decode_commandWord_append rest (commandOf_cmdShuntConfig hcodes)
  | cmdProgramAddress => exact decode_commandWord_append rest (commandOf_cmdProgramAddress hcodes)
  | enumerationRequest => exact decode_commandWord_append rest (commandOf_cmdEnumRequest hcodes)
  | cmdUnknown x => exact decode_commandWord_append rest (commandOf_of_not_mem (of_decide_eq_true hwf))
  | notify => exact if_pos rfl
  -- sub_command
  | outputClear => exact decode_outputSubWord_append rest .clear
  | outputSet => exact decode_outputSubWord_append rest .set
  | outputRead => exact decode_outputSubWord_append rest .read
  | shuntReadConfig => exact decode_shuntSubWord_append rest .readConfig
  | shuntWriteConfig => exact decode_shuntSubWord_append rest .writeConfig
  | shuntReadCal => exact decode_shuntSubWord_append rest .readCal
  -- session_state
  | pollSStart => exact decode_sessionWord_append rest .fgNone .start
  | pollSPacketReady => exact decode_sessionWord_append rest .fgNone .packetReady
  | pollSDecode => exact decode_sessionWord_append rest .fgNone .decode
  | pollSRespond => exact decode_sessionWord_append rest .fgNone .respond
  | pollSTxStart => exact decode_sessionWord_append rest .fgNone .txStart
  | pollSWaitTx => exact decode_sessionWord_append rest .fgNone .waitTx
  | pollSWaitDrain => exact decode_sessionWord_append rest .fgNone .waitDrain
  | pollSFinish => exact decode_sessionWord_append rest .fgNone .finish
  | pollFgI2cWait => exact decode_sessionWord_append rest .fgI2cWait .decode
  -- i2c_phase
  | i2cPh0 d => exact decode_phaseWord_append rest 0 d
  | i2cPh1 d => exact decode_phaseWord_append rest 1 d
  | i2cPh2 d => exact decode_phaseWord_append rest 2 d
  | i2cPh3 d => exact decode_phaseWord_append rest 3 d
  | i2cPh4 d => exact decode_phaseWord_append rest 4 d
  | i2cPh5 d => exact decode_phaseWord_append rest 5 d
  | i2cPh6 d => exact decode_phaseWord_append rest 6 d
  | i2cPh7 d => exact decode_phaseWord_append rest 7 d
  | i2cPh8 d => exact decode_phaseWord_append rest 8 d
  | i2cIllegal p d =>
    have hp : 9 ≤ p := of_decide_eq_true hwf
    exact (decode_phaseWord_append rest p d).trans (congrArg (Decoded.instr · rest) (phaseInstr_of_illegal hp d))
  | i2cAddrByte a r =>
    obtain rfl : a = c.i2cDevAddr := of_decide_eq_true hwf
    exact decode_busAddressWord_append rest r
  -- operation
  | rxByte b | i2cEvent b => rfl
  | txReady | tickRx | tickArb | poll | reseed => rfl
  | crc8 buf => exact decode_crc8Word_append rest (of_decide_eq_true hwf)
  | crc16 seed buf => exact decode_crc16Word_append rest seed (of_decide_eq_true hwf)
  | i2cBegin dir reg val => exact decode_i2cBeginWord_append rest dir reg val
  | raise r =>
    have hr : r ≠ c.irqNone := of_decide_eq_true hwf
    exact if_neg hr
  | programAddress a =>
    have ha : a ≠ broadcast := of_decide_eq_true hwf
    exact if_neg ha

/-! ### The rows that the classifiers give, with the operands that they may have -/

theorem not_mem_headers_of_other {c : Cfg} {b : Byte} (h : controlOf c b = .other) : b ∉ c.headers := by
  simp only [controlOf, ite_eq_iff, reduceCtorEq, and_false, false_or, and_true] at h
  simpa [Cfg.headers] using h

theorem not_mem_commands_of_unknown {c : Cfg} {x : Byte} (h : commandOf c x = .unknown) : x ∉ c.commands := by
  simp only [commandOf, ite_eq_iff, reduceCtorEq, and_false, false_or, and_true] at h
  simpa [Cfg.commands] using h

section Rows
variable (c : Cfg)

theorem wellFormed_rxClass_instr (ready esc : Bool) (st : RxState) (b : Byte) :
    ((rxClass c ready st esc b).instr b).wellFormed c = true := by
  unfold rxClass
  split_ifs with _ _ _ hstart hend hesc
  case pos => rfl
  all_goals simp [RxClass.instr, Instr.wellFormed, *]

theorem wellFormed_txAction_instr (st : TxState) (p : Byte) : (txAction c st p).instr.wellFormed c = true := by
  cases st with
  | idle | escWait | done => rfl
  | sending =>
    by_cases hp : p ≤ c.esc
    · simp [txAction, hp, TxAction.instr, Instr.wellFormed]
    · have hesc : c.esc < 0xFF := by bv_omega
      simpa [txAction, hp, TxAction.instr, Instr.wellFormed] using hesc

theorem wellFormed_controlOf_instr (b : Byte) : ((controlOf c b).instr b).wellFormed c = true := by
  cases hk : controlOf c b with
  | other => exact decide_eq_true (not_mem_headers_of_other hk)
  | req8 | req16 | ack8 | nak8 | ack16 | nak16 | irq16 => rfl

theorem wellFormed_commandOf_instr (x : Byte) : ((commandOf c x).instr x).wellFormed c = true := by
  cases hk : commandOf c x with
  | unknown => exact decide_eq_true (not_mem_commands_of_unknown hk)
  | noOp | getNodeId | getCommStatus | getIrqPoll | output | getVolts | getCurrent | getPower | shuntConfig
  | programAddress | enumRequest => rfl

theorem wellFormed_pollInstr (f : FgCont) (st : SessionState) : (pollInstr f st).wellFormed c = true := by
  cases f with
  | fgI2cWait => rfl
  | fgNone => cases st <;> rfl

theorem wellFormed_phaseInstr (p : BitVec 4) (d : Byte) : (phaseInstr p d).wellFormed c = true := by
  by_cases hp : 9 ≤ p
  · rw [phaseInstr_of_illegal hp]
    exact decide_eq_true hp
  · unfold phaseInstr
    split_ifs
    case neg => bv_omega
    all_goals rfl

end Rows

/-! ### The decoders give no other row -/

/-- An instruction the decoder answers is well formed. -/
def Decoded.WellFormed (c : Cfg) : Decoded → Prop
  | .instr i _ => i.wellFormed c = true
  | .bad _ => True

theorem Decoded.WellFormed.ite {c : Cfg} {p : Prop} [Decidable p] {d d' : Decoded} (h : p → d.WellFormed c)
    (h' : ¬ p → d'.WellFormed c) : (if p then d else d').WellFormed c := by
  split
  case isTrue hp => exact h hp
  case isFalse hp => exact h' hp

section Decoders
variable (c : Cfg) (w : Bytes)

theorem decodeRx_wellFormed : (decodeRx c w).WellFormed c := by
  unfold decodeRx
  split
  · split
    · exact wellFormed_rxClass_instr ..
    all_goals trivial
  · trivial

theorem decodeTx_wellFormed : (decodeTx c w).WellFormed c := by
  unfold decodeTx
  split
  · split
    · exact wellFormed_txAction_instr ..
    · trivial
  · trivial

theorem decodeControl_wellFormed : (decodeControl c w).WellFormed c := by
  cases w with
  | nil => trivial
  | cons b rest => exact wellFormed_controlOf_instr c b

theorem decodeAddress_wellFormed : (decodeAddress w).WellFormed c := by
  cases w with
  | nil => trivial
  | cons a rest =>
    by_cases ha : a = broadcast <;> simp [decodeAddress, Decoded.WellFormed, Instr.wellFormed, ha]

theorem decodeCommand_wellFormed : (decodeCommand c w).WellFormed c := by
  cases w with
  | nil => trivial
  | cons x rest => exact wellFormed_commandOf_instr c x

theorem decodeNodeCommand_wellFormed : (decodeNodeCommand c w).WellFormed c := by
  cases w with
  | nil => trivial
  | cons x rest => exact .ite (fun _ => rfl) fun _ => trivial

theorem decodeOutputSub_wellFormed : (decodeOutputSub w).WellFormed c := by
  cases w with
  | nil => trivial
  | cons b rest =>
    simp only [decodeOutputSub]
    cases outputSubOf b with
    | none => trivial
    | some k => cases k <;> rfl

theorem decodeShuntSub_wellFormed : (decodeShuntSub w).WellFormed c := by
  cases w with
  | nil => trivial
  | cons b rest =>
    simp only [decodeShuntSub]
    cases shuntSubOf b with
    | none => trivial
    | some k => cases k <;> rfl

theorem decodeSession_wellFormed : (decodeSession w).WellFormed c := by
  unfold decodeSession
  split
  · split
    · exact wellFormed_pollInstr ..
    all_goals trivial
  · trivial

theorem decodePhase_wellFormed : (decodePhase w).WellFormed c := by
  unfold decodePhase
  split
  · exact .ite (fun _ => wellFormed_phaseInstr ..) fun _ => trivial
  · trivial

theorem decodeBusAddress_wellFormed : (decodeBusAddress c w).WellFormed c := by
  cases w with
  | nil => trivial
  | cons v rest => exact .ite (fun ha => decide_eq_true ha) fun _ => trivial

/-- The length of a buffer operand fits its one byte. -/
theorem takeBuffer_wellFormed {k : Bytes → Bytes → Decoded}
    (hk : ∀ buf more, buf.length ≤ 255 → (k buf more).WellFormed c) : (takeBuffer k w).WellFormed c := by
  cases w with
  | nil => trivial
  | cons n rest =>
    refine .ite (fun _ => hk _ _ ?_) fun _ => trivial
    have hn := n.isLt
    rw [List.length_take]
    omega

theorem decodeOperation_wellFormed : (decodeOperation c w).WellFormed c := by
  cases w with
  | nil => trivial
  | cons op args =>
    simp only [decodeOperation]
    split
    case h_7 | h_8 => exact takeBuffer_wellFormed _ _ fun _ _ hlen => decide_eq_true hlen
    case h_9 => split <;> trivial
    case h_11 | h_12 => exact .ite (fun _ => trivial) fun hoperand => decide_eq_true hoperand
    case h_13 => exact .ite (fun _ => trivial) fun _ => trivial
    all_goals rfl

theorem decode_wellFormed : (decode c w).WellFormed c := by
  cases w with
  | nil => trivial
  | cons space word =>
    simp only [decode]
    split
    · exact decodeRx_wellFormed c word
    · exact decodeTx_wellFormed c word
    · exact decodeControl_wellFormed c word
    · exact decodeAddress_wellFormed c word
    · exact decodeCommand_wellFormed c word
    · exact decodeNodeCommand_wellFormed c word
    · exact decodeOutputSub_wellFormed c word
    · exact decodeShuntSub_wellFormed c word
    · exact decodeSession_wellFormed c word
    · exact decodePhase_wellFormed c word
    · exact decodeBusAddress_wellFormed c word
    · exact decodeOperation_wellFormed c word
    · trivial

end Decoders

/-- Settles O3: every code space decodes to well-formed rows. -/
theorem decodedInstructionIsWellFormed : Obligations.DecodedInstructionIsWellFormed := by
  intro c w i rest hdecode
  have hwf := decode_wellFormed c w
  rw [hdecode] at hwf
  exact hwf

/-- Settles O1: the decoder evaluates each word. -/
theorem codedWordsStandForTheirRows : Obligations.CodedWordsStandForTheirRows := by
  and_intros <;> rfl

end Sys2Proof

/-! ## The invariants (obligations O57, O58, O59)

70_reset_and_hazards.md R316 with 41_frame_receiver.md R160 and 20_memory.md R62. One lemma for each update of the state
that a step is made of says that it keeps `Inv`, naming the clauses that the update touches. `Sound r`: the result `r`
is a next state that meets the invariants; that every event is sound from such a state gives O58 and O59 at once. -/

namespace Sys2Proof.Machine

/-! ### Power-up, 70_reset_and_hazards.md R311 to R315 -/

/-- R314: an erased address byte is replaced by the default, which 00_scope.md R7 (f) keeps from 255. -/
theorem bootAddress_ne_broadcast {c : Cfg} (hl : c.Legal) (store : Memory) : bootAddress c store ≠ broadcast := by
  obtain ⟨-, -, -, -, -, hdefault, -⟩ := hl
  unfold bootAddress
  split
  case isTrue => exact hdefault
  case isFalse hstored => exact hstored

/-- 00_scope.md R7 (g): no reason that the block raises is the one that stands for none. -/
theorem legal_reasons_ne_none {c : Cfg} (hl : c.Legal) : c.irqAtBoot ≠ c.irqNone ∧ c.irqEnum ≠ c.irqNone := by
  obtain ⟨-, -, -, -, -, -, ⟨hreasons, -⟩, -⟩ := hl
  simp only [List.nodup_cons, List.mem_cons, List.not_mem_nil, or_false, not_or] at hreasons
  obtain ⟨⟨hboot, henum⟩, -⟩ := hreasons
  exact ⟨Ne.symm hboot, Ne.symm henum⟩

/-- Settles O57: nothing is in flight at power-up, so the clauses about an exchange, a transmission and a hold are
void. -/
theorem powerUpMeetsTheInvariants : Obligations.PowerUpMeetsTheInvariants := by
  intro c store u hl hstore hpkt hinside
  have hreason := (legal_reasons_ne_none hl).1
  exact {
    cfgLegal := hl
    pktWf := hpkt
    pktInside := hinside
    storeWf := hstore
    nodeUnicast := bootAddress_ne_broadcast hl store
    readyFinishing := nofun
    rxIdxBound := Nat.zero_le _
    timeoutRuns := nofun
    timeoutBound := Nat.zero_le _
    triggerBusy := rfl
    busyWaits := nofun
    txCount := nofun
    txPending := nofun
    txLenBound := Nat.zero_le _
    txStartLen := nofun
    driverWaits := by simp [State.powerUp]
    heldInDecode := nofun
    busyHeld := nofun
    phaseLegal := show (0 : BitVec 4) ≤ 8 by decide
    raisedReason := by simp [State.powerUp, hreason]
    exchangeReady := by simp [State.powerUp]
    exchangeLen := by simp [State.powerUp]
    heldCommand := nofun }

/-! ### What the invariants say of a state -/

/-- The line driver is off in every session state but the two that wait for the transmitter. -/
abbrev DriverOff (st : SessionState) : Prop := st ≠ .waitTx ∧ st ≠ .waitDrain

/-- The command in the buffer is one whose handler waits for the bus engine, 42_session_fsm.md R181. -/
abbrev State.commandWaits (s : State) : Prop :=
  commandOf s.cfg (s.pktByte 2) = .shuntConfig
  ∨ (s.paramLen = 8
    ∧ (commandOf s.cfg (s.pktByte 2) = .getVolts ∨ commandOf s.cfg (s.pktByte 2) = .getCurrent
      ∨ commandOf s.cfg (s.pktByte 2) = .getPower))

namespace Inv
variable {s : State} (h : Inv s)
include h

section Facts

theorem not_busy (hst : s.sessionState ≠ .waitTx) : s.txBusy = false :=
  Bool.eq_false_iff.2 fun hbusy => hst (h.busyWaits hbusy)

theorem driver_off (hst : DriverOff s.sessionState) : s.lineDriverEn = false :=
  Bool.eq_false_iff.2 fun hon => (h.driverWaits.1 hon).elim hst.1 hst.2

theorem engine_free (hfg : s.fgCont = .fgNone) : s.i2cBusy = false :=
  Bool.eq_false_iff.2 fun hbusy => absurd (hfg.symm.trans (h.busyHeld hbusy)) (by decide)

/-- Without a packet ready no exchange is in flight. -/
theorem no_exchange (hready : s.pktReady = false) :
    s.sessionState ≠ .packetReady ∧ s.sessionState ≠ .decode ∧ s.sessionState ≠ .respond := by
  refine ⟨fun hst => ?_, fun hst => ?_, fun hst => ?_⟩ <;>
    exact absurd (hready.symm.trans (h.exchangeReady (by simp [hst]))) (by decide)

theorem not_held (hst : s.sessionState ≠ .decode) : s.fgCont = .fgNone := by
  cases hfg : s.fgCont with
  | fgNone => rfl
  | fgI2cWait => exact absurd (h.heldInDecode hfg) hst

/-- 20_memory.md R62: while a data byte is due, the index of the transmitter is inside the buffer. -/
theorem txIdx_lt_cap (hen : s.txIrqEn = true) (hdue : s.txState = .sending ∨ s.txState = .escWait) :
    s.txIdx < s.cfg.cap := by
  have hbusy : s.txBusy = true := h.triggerBusy ▸ hen
  have hcount := h.txCount hbusy
  have hleft := h.txPending hbusy hdue
  have hlen := h.txLenBound
  omega

end Facts

/-! ### The receiver and the ticks, 41_frame_receiver.md R152 to R159 -/

section Reception

theorem frame_begun (hready : s.pktReady = false) :
    Inv { s with rxIdx := 0, rxEsc := false, rxTimeout := s.cfg.rxTimeoutTicks, rxState := .assembling } := by
  obtain ⟨-, hdecode, hrespond⟩ := h.no_exchange hready
  have hfg := h.not_held hdecode
  obtain ⟨-, -, -, -, -, -, -, hticks, -⟩ := h.cfgLegal
  exact { h with
    readyFinishing := fun ht => nomatch hready.symm.trans ht
    rxIdxBound := Nat.zero_le _
    timeoutRuns := fun _ => hticks
    timeoutBound := le_refl _
    exchangeLen := fun hst => (hst.elim hdecode hrespond).elim
    heldCommand := fun hheld => nomatch hfg.symm.trans hheld }

theorem packet_latched : Inv { s with rxState := .finishing, pktReady := true } :=
  { h with
    readyFinishing := fun _ => rfl
    timeoutRuns := nofun
    exchangeReady := fun _ => rfl }

theorem byte_appended (hready : s.pktReady = false) (b : Byte) : Inv (append b s) := by
  obtain ⟨-, hdecode, hrespond⟩ := h.no_exchange hready
  have hfg := h.not_held hdecode
  have hidx := h.rxIdxBound
  rw [append_eq]
  exact { h with
    pktWf := by
      dsimp only
      split
      · exact Memory.write_wf h.pktWf ..
      · exact h.pktWf
    pktInside := by
      dsimp only
      split
      case isTrue hroom => exact Memory.write_inside h.pktInside hroom
      case isFalse => exact h.pktInside
    rxIdxBound := by
      dsimp only
      split <;> omega
    exchangeLen := fun hst => (hst.elim hdecode hrespond).elim
    heldCommand := fun hheld => nomatch hfg.symm.trans hheld }

theorem receiver_ticked : Inv (tickReceiver s) := by
  have hbound := h.timeoutBound
  by_cases hst : s.rxState = .assembling
  case neg => rwa [tickReceiver_of_not_assembling hst]
  have hruns := h.timeoutRuns hst
  by_cases hlast : s.rxTimeout = 1
  · rw [tickReceiver_of_last_tick hst hlast]
    exact { h with
      readyFinishing := fun hready => absurd (hst.symm.trans (h.readyFinishing hready)) (by decide)
      timeoutRuns := nofun
      timeoutBound := Nat.zero_le _ }
  · rw [tickReceiver_of_ticks_left hst (by omega)]
    exact { h with
      timeoutRuns := fun _ => show 1 ≤ s.rxTimeout - 1 by omega
      timeoutBound := show s.rxTimeout - 1 ≤ s.cfg.rxTimeoutTicks by omega }

theorem arbitrator_ticked : Inv (tickArbitrator s) := by
  rw [tickArbitrator_eq]
  exact { h with }

end Reception

/-! ### The transmitter, 43_frame_transmitter.md R201 to R205 -/

section Transmission

theorem start_mark_sent : Inv (frameBegun s) :=
  { h with
    txPending := fun _ hdue => by
      by_cases hrem : s.txRem = 0
      · simp [frameBegun, hrem] at hdue
      · exact Nat.pos_of_ne_zero hrem }

theorem esc_sent (hst : s.txState = .sending) : Inv (escAnnounced s) :=
  { h with txPending := fun hbusy _ => h.txPending hbusy (.inl hst) }

theorem byte_sent (hdue : s.txState = .sending ∨ s.txState = .escWait) : Inv (byteSent s) :=
  { h with
    txCount := fun hbusy => by
      have hcount := h.txCount hbusy
      have hleft := h.txPending hbusy hdue
      show s.txIdx + 1 + (s.txRem - 1) = s.txLen
      omega
    txPending := fun _ hnext => by
      by_cases hrem : s.txRem - 1 = 0
      · simp [byteSent, dataSent, hrem] at hnext
      · exact Nat.pos_of_ne_zero hrem }

theorem end_mark_sent : Inv (frameEnded s) :=
  { h with
    triggerBusy := rfl
    busyWaits := nofun
    txCount := nofun
    txPending := nofun }

end Transmission

/-! ### The bus engine, 44_i2c_engine.md R216 to R227 -/

section Bus

theorem bus_stepped {p : BitVec 4} (hp : p ≤ 8) (a : BusAction) : Inv (busStep a p s) := { h with phaseLegal := hp }

theorem value_captured (v : Half) : Inv { s with i2cVal := v } := { h with }

theorem bus_done : Inv (busDone s) := { h with busyHeld := nofun, phaseLegal := show (0 : BitVec 4) ≤ 8 by decide }

/-- 42_session_fsm.md R181: a handler of S_DECODE begins a transaction and waits for it. -/
theorem hold_begun (hst : s.sessionState = .decode) (hwaits : s.commandWaits) (dir : Dir) (reg : Byte) (val : Half) :
    Inv { i2cStart dir reg val s with fgCont := .fgI2cWait } :=
  { h with
    heldInDecode := fun _ => hst
    busyHeld := fun _ => rfl
    phaseLegal := show (0 : BitVec 4) ≤ 8 by decide
    heldCommand := fun _ => hwaits }

/-- 42_session_fsm.md R181: the hold ends when the engine is free. -/
theorem hold_released (hfree : s.i2cBusy = false) : Inv { emit .wdtKick s with fgCont := .fgNone } :=
  { h with
    heldInDecode := nofun
    busyHeld := fun hbusy => nomatch hfree.symm.trans hbusy
    heldCommand := nofun }

end Bus

/-! ### The buffer, the store and the registers that the handlers write -/

section Registers

/-- 20_memory.md R62: bytes written inside the buffer, while no hold refers to the command in it. -/
theorem pkt_written (hfg : s.fgCont = .fgNone) {i : Nat} {vs : Bytes} (hinside : i + vs.length ≤ s.cfg.cap) :
    Inv { s with pkt := s.pkt.writeAll .pkt i vs } :=
  { h with
    pktWf := Memory.writeAll_wf vs h.pktWf i
    pktInside := Memory.writeAll_inside vs h.pktInside hinside
    heldCommand := fun hheld => nomatch hfg.symm.trans hheld }

theorem out_set (ch : Byte) (v : Bool) : Inv (setOut ch v s) := { h with }

theorem address_assigned {a : Byte} (ha : a ≠ broadcast) : Inv (assignAddress a s) :=
  { h with storeWf := Memory.write_wf h.storeWf .., nodeUnicast := ha }

theorem reason_raised {r : Byte} (hr : r ≠ s.cfg.irqNone) : Inv (raiseReason r s) :=
  { h with raisedReason := ⟨nofun, fun hnone => absurd hnone hr⟩ }

theorem reason_cleared : Inv { s with irqReason := s.cfg.irqNone, irqRaised := false } :=
  { h with raisedReason := ⟨fun _ => rfl, fun _ => rfl⟩ }

/-- The CRC width is free where no length depends on it: between exchanges and before the length check. -/
theorem crc_width_set (hfg : s.fgCont = .fgNone) (hst : s.sessionState = .start ∨ s.sessionState = .packetReady)
    (wide : Bool) : Inv { s with crc16Mode := wide } := by
  have hne : s.sessionState ≠ .txStart ∧ s.sessionState ≠ .decode ∧ s.sessionState ≠ .respond := by
    obtain hst | hst := hst <;> rw [hst] <;> decide
  obtain ⟨htx, hdecode, hrespond⟩ := hne
  exact { h with
    txStartLen := fun hst => absurd hst htx
    exchangeLen := fun hst => (hst.elim hdecode hrespond).elim
    heldCommand := fun hheld => nomatch hfg.symm.trans hheld }

/-- The length to send is free while none is being sent or about to be. -/
theorem tx_len_set {st : SessionState} (hp : s.polls st) (hst : st ≠ .waitTx ∧ st ≠ .txStart) {n : Nat}
    (hn : n ≤ s.cfg.cap) : Inv { s with txLen := n } := by
  obtain ⟨-, rfl⟩ := hp
  have hidle := h.not_busy hst.1
  exact { h with
    txCount := fun hbusy => nomatch hidle.symm.trans hbusy
    txLenBound := hn
    txStartLen := fun htx => absurd htx hst.2 }

end Registers

/-! ### The session states, 42_session_fsm.md R172 to R180 -/

section Session

/-- From one state with the driver off to another, when the new state's own clauses hold. -/
theorem moved {st st' : SessionState} (hp : s.polls st) (hoff : DriverOff st) (hoff' : DriverOff st')
    (hlen : st' = .txStart → s.overhead ≤ s.txLen)
    (hready : st' = .packetReady ∨ st' = .decode ∨ st' = .respond → s.pktReady = true)
    (hexchange : st' = .decode ∨ st' = .respond → s.overhead ≤ s.rxIdx ∧ s.rxIdx ≤ s.cfg.cap) :
    Inv { s with sessionState := st' } := by
  obtain ⟨hfg, rfl⟩ := hp
  have hidle := h.not_busy hoff.1
  have hdriver := h.driver_off hoff
  exact { h with
    busyWaits := fun hbusy => nomatch hidle.symm.trans hbusy
    txStartLen := hlen
    driverWaits := ⟨fun hon => (nomatch hdriver.symm.trans hon), fun hst => (hst.elim hoff'.1 hoff'.2).elim⟩
    heldInDecode := fun hheld => nomatch hfg.symm.trans hheld
    exchangeReady := hready
    exchangeLen := hexchange }

/-- R172: the way to S_FINISH is open from every state with the driver off. -/
theorem finished {st : SessionState} (hp : s.polls st) (hoff : DriverOff st) : Inv { s with sessionState := .finish } :=
  h.moved hp hoff (by decide) nofun (by simp) (by simp)

/-- R175: the frame that was decoded is answered. -/
theorem command_finished (hp : s.polls .decode) (err : Byte) : Inv (finishCommand err s) := by
  have hmoved : Inv { s with sessionState := .respond } :=
    h.moved hp (by decide) (by decide) nofun (fun _ => h.exchangeReady (.inr (.inl hp.2))) fun _ =>
      h.exchangeLen (.inl hp.2)
  exact { hmoved with }

/-- R177: the transmitter is armed with the whole length. -/
theorem armed (hp : s.polls .txStart) : Inv (armTransmitter s) := by
  obtain ⟨hfg, -⟩ := hp
  exact { h with
    triggerBusy := rfl
    busyWaits := fun _ => rfl
    txCount := fun _ => Nat.zero_add _
    txPending := by simp
    txStartLen := nofun
    driverWaits := by simp
    heldInDecode := fun hheld => nomatch hfg.symm.trans hheld
    exchangeReady := by simp
    exchangeLen := by simp }

/-- R178: the transmitter is done. -/
theorem drain_awaited (hp : s.polls .waitTx) (hidle : s.txBusy = false) :
    Inv { s with sessionState := .waitDrain } := by
  obtain ⟨hfg, hst⟩ := hp
  have hdriver : s.lineDriverEn = true := h.driverWaits.2 (.inl hst)
  exact { h with
    busyWaits := fun hbusy => nomatch hidle.symm.trans hbusy
    txStartLen := nofun
    driverWaits := by simp [hdriver]
    heldInDecode := fun hheld => nomatch hfg.symm.trans hheld
    exchangeReady := by simp
    exchangeLen := by simp }

/-- R179: the line is drained and the driver is released. -/
theorem driver_released (hp : s.polls .waitDrain) : Inv { s with lineDriverEn := false, sessionState := .finish } := by
  obtain ⟨hfg, hst⟩ := hp
  have hidle := h.not_busy (by rw [hst]; decide)
  exact { h with
    busyWaits := fun hbusy => nomatch hidle.symm.trans hbusy
    txStartLen := nofun
    driverWaits := by simp
    heldInDecode := fun hheld => nomatch hfg.symm.trans hheld
    exchangeReady := by simp
    exchangeLen := by simp }

/-- R180: the packet is given back to the receiver. -/
theorem returned (hp : s.polls .finish) : Inv (returnToStart s) := by
  have hmoved : Inv { s with sessionState := .start } := h.moved hp (by decide) (by decide) nofun (by simp) (by simp)
  exact { hmoved with
    readyFinishing := nofun
    exchangeReady := by simp }

theorem accepted (inp : Input) (rest : List Input) : Inv (s.accept inp rest) := { h with }

end Session

end Inv

/-! ### Results that meet the invariants -/

/-- The result is a next state, and it meets the invariants. -/
def Sound (r : Result) : Prop := ∃ t, r = .next t ∧ Inv t

section Results
variable {s t : State} {r r' : Result}

theorem Sound.of_eq (hr : r = .next t) (ht : Inv t) : Sound r := ⟨t, hr, ht⟩

theorem Sound.next (ht : Inv t) : Sound (.next t) := .of_eq rfl ht

theorem Sound.ite {p : Prop} [Decidable p] (h : p → Sound r) (h' : ¬ p → Sound r') :
    Sound (if p then r else r') := by
  split
  case isTrue hp => exact h hp
  case isFalse hp => exact h' hp

theorem Sound.onlyIf {m : String} {p : Prop} [Decidable p] (hp : p) (h : Sound r) : Sound (onlyIf m p r) := by
  rwa [Machine.onlyIf, if_pos hp]

end Results

/-! ### The handlers, 46_command_dispatch.md R257 to R271 -/

section Handlers
variable {s : State} (h : Inv s) (hp : s.polls .decode)
include h hp

/-- A frame in S_DECODE passed the length check of R174. -/
theorem Inv.decoding : s.decoding (s.pktByte 2) := by
  obtain ⟨-, hcap⟩ := h.exchangeLen (.inl hp.2)
  exact ⟨h.cfgLegal, hp, hcap, rfl⟩

theorem sound_finishCommand (err : Byte) : Sound (.next (finishCommand err s)) := .next (h.command_finished hp err)

/-- A command that answers with bytes in the packet. -/
theorem Inv.answered {i : Nat} {vs : Bytes} (err : Byte) (hinside : i + vs.length ≤ s.cfg.cap) :
    Inv (finishCommand err { s with pkt := s.pkt.writeAll .pkt i vs }) :=
  (h.pkt_written hp.1 hinside).command_finished hp err

/-- R258: a handler is sound when it is so for its parameter count, whose parameters end inside the buffer. -/
theorem sound_of_paramCount {k : Command} {n : Nat} (hn : k.paramCount = some n)
    (hright : s.paramLen = n → (1 ≤ n → 4 + n ≤ s.cfg.cap) → Sound (k.handle s)) : Sound (k.handle s) := by
  by_cases hlen : s.paramLen = n
  · exact hright hlen (decoding_paramLen_le (h.decoding hp) hlen)
  · rw [handle_wrongCount hn hlen]
    exact sound_finishCommand h hp _

theorem sound_outputSub_run (hcap : 7 ≤ s.cfg.cap) (k : OutputSub) : Sound (k.run s) := by
  have hwrite (v : Bool) : Sound (outputWrite v s) := by
    refine .of_eq (outputWrite_next.2 ⟨by omega, rfl⟩) ?_
    split
    · exact h.command_finished hp _
    · exact (h.out_set ..).command_finished hp _
  cases k with
  | clear => exact hwrite false
  | set => exact hwrite true
  | read =>
    by_cases hch : s.pktByte 3 > 1
    · rw [outputSub_run_bad hcap (.inl hch)]
      exact sound_finishCommand h hp _
    · exact .of_eq (outputReadBack_eq hcap (BitVec.not_lt.1 hch)) (h.answered hp _ (show 5 + 1 ≤ s.cfg.cap by omega))

/-- R181: a transaction begun in S_DECODE by a command that waits for it. -/
theorem sound_beginTransaction_hold (hwaits : s.commandWaits) (dir : Dir) (reg : Byte) (val : Half) :
    Sound (beginTransaction dir reg val s hold) :=
  .of_eq (beginTransaction_next.2 ⟨h.engine_free hp.1, hold_next.2 rfl⟩) (h.hold_begun hp.2 hwaits dir reg val)

theorem sound_telemetryBegin {k : Quantity} (hk : commandOf s.cfg (s.pktByte 2) = k.command) :
    Sound (k.command.handle s) := by
  refine sound_of_paramCount h hp paramCount_command fun hlen _ => ?_
  have hwaits : s.commandWaits := .inr ⟨hlen, by cases k <;> simp [hk, Quantity.command]⟩
  rw [handle_command_eq_telemetryBegin, telemetryBegin, withParams, if_pos hlen]
  exact sound_beginTransaction_hold h hp hwaits ..

/-- R267: the ratings are persisted before the transaction begins. -/
theorem sound_ratingsWrite (hk : commandOf s.cfg (s.pktByte 2) = .shuntConfig) (v : Byte) (r : Half) (reg : Byte)
    (val : Half) : Sound (beginTransaction .write reg val (takeRatings v r s) hold) :=
  .of_eq (beginTransaction_takeRatings (h.engine_free hp.1) reg val)
    { h.hold_begun hp.2 (.inl hk) .write reg val with storeWf := Memory.writeAll_wf _ h.storeWf _ }

theorem sound_shuntSub_run (hcap : 8 ≤ s.cfg.cap) (hk : commandOf s.cfg (s.pktByte 2) = .shuntConfig) (k : ShuntSub) :
    Sound (k.run s) := by
  cases k with
  | readConfig => exact .of_eq (shuntConfigRead_eq hcap) (h.answered hp _ (show 4 + 3 ≤ s.cfg.cap by omega))
  | readCal => exact .of_eq (shuntCalRead_eq hcap) (h.answered hp _ (show 4 + 2 ≤ s.cfg.cap by omega))
  | writeConfig =>
    rw [ShuntSub.run, shuntConfigWrite_eq hcap rfl rfl]
    exact .ite (fun _ => sound_ratingsWrite h hp hk ..) fun _ => sound_finishCommand h hp _

/-- Every command of a frame for this node is answered, or its handler begins to wait. -/
theorem sound_handle {k : Command} (hk : commandOf s.cfg (s.pktByte 2) = k) : Sound (k.handle s) := by
  cases k with
  | noOp => exact sound_of_paramCount h hp rfl fun hlen _ => .of_eq (if_pos hlen) (h.command_finished hp _)
  | getNodeId =>
    refine sound_of_paramCount h hp rfl fun hlen hroom => ?_
    have hcap := hroom (by decide)
    exact .of_eq (handleGetNodeId_eq hlen hcap) (h.answered hp _ (show 3 + 4 ≤ s.cfg.cap by omega))
  | getCommStatus =>
    refine sound_of_paramCount h hp rfl fun hlen hroom => ?_
    have hcap := hroom (by decide)
    have hanswer := h.answered (vs := [s.crcErrCount, s.timeoutCount]) hp s.cfg.errNone
      (show 4 + 2 ≤ s.cfg.cap by omega)
    exact .of_eq (handleGetCommStatus_eq hlen hcap) { hanswer with }
  | getIrqPoll =>
    refine sound_of_paramCount h hp rfl fun hlen hroom => ?_
    have hcap := hroom (by decide)
    exact .of_eq (handleGetIrqPoll_eq hlen hcap) (h.reason_cleared.answered hp _ (show 3 + 1 ≤ s.cfg.cap by omega))
  | output =>
    refine sound_of_paramCount h hp rfl fun hlen hroom => ?_
    have hcap := hroom (by decide)
    rw [Command.handle, handleOutput_eq hlen hcap]
    cases outputSubOf (s.pktByte 4) with
    | none => exact sound_finishCommand h hp _
    | some k => exact sound_outputSub_run h hp hcap k
  | shuntConfig =>
    refine sound_of_paramCount h hp rfl fun hlen hroom => ?_
    have hcap := hroom (by decide)
    rw [Command.handle, handleShuntConfig_eq hlen hcap]
    cases shuntSubOf (s.pktByte 3) with
    | none => exact sound_finishCommand h hp _
    | some k => exact sound_shuntSub_run h hp hcap hk k
  | getVolts => exact sound_telemetryBegin (k := .volts) h hp hk
  | getCurrent => exact sound_telemetryBegin (k := .current) h hp hk
  | getPower => exact sound_telemetryBegin (k := .power) h hp hk
  | programAddress | enumRequest | unknown => exact sound_finishCommand h hp _

/-- R181: the handler that waited ends its command. -/
theorem sound_resumeHandler (hwaits : s.commandWaits) : Sound (resumeHandler s) := by
  obtain ⟨-, h2⟩ := decoding_cap (h.decoding hp)
  obtain hk | ⟨hlen, hk⟩ := hwaits
  · rw [resumeHandler_shuntConfig h2 hk]
    exact sound_finishCommand h hp _
  · have hcap := decoding_paramLen_le (h.decoding hp) hlen (by decide)
    have hquantity : ∃ k : Quantity, commandOf s.cfg (s.pktByte 2) = k.command :=
      hk.elim (⟨.volts, ·⟩) fun hk => hk.elim (⟨.current, ·⟩) (⟨.power, ·⟩)
    obtain ⟨k, hk⟩ := hquantity
    rw [resumeHandler_telemetry h2 hk]
    exact .of_eq (telemetryFinish_next.2 ⟨by omega, rfl⟩) (h.answered hp _ (show 3 + 7 ≤ s.cfg.cap by omega))

end Handlers

/-! ### `POLL`, 42_session_fsm.md R173 to R181 -/

section Poll
variable {s : State} (h : Inv s)
include h

theorem sound_pollFgI2cWait (hfg : s.fgCont = .fgI2cWait) : Sound (exec .pollFgI2cWait s) := by
  cases hbusy : s.i2cBusy with
  | true => exact .of_eq (exec_pollFgI2cWait_busy hfg hbusy) { h with }
  | false =>
    rw [exec_pollFgI2cWait_done hfg hbusy]
    exact sound_resumeHandler (h.hold_released hbusy) ⟨rfl, h.heldInDecode hfg⟩ (h.heldCommand hfg)

theorem sound_pollSStart (hp : s.polls .start) : Sound (exec .pollSStart s) := by
  by_cases hready : s.pktReady = true
  · have hmoved : Inv { s with sessionState := .packetReady } :=
      h.moved hp (by decide) (by decide) nofun (fun _ => hready) (by simp)
    exact .of_eq (exec_pollSStart_ready hp hready) hmoved
  rw [Bool.not_eq_true] at hready
  by_cases hdue : s.attemptDue
  · have hcap := legal_five_le_cap h.cfgLegal
    have hwide : Inv { s with crc16Mode := true } := h.crc_width_set hp.1 (.inl hp.2) true
    have hlen : Inv { s with crc16Mode := true, txLen := 5 } := hwide.tx_len_set hp (by decide) hcap
    have hpkt := hlen.pkt_written (vs := [s.cfg.hdrIrq16, s.nodeAddr, s.cfg.notifyCmd]) hp.1
      (show 0 + 3 ≤ s.cfg.cap by omega)
    have hmoved := hpkt.moved (st' := .txStart) hp (by decide) (by decide) (fun _ => le_refl ovh16) (by simp) (by simp)
    rw [exec_pollSStart_due hp hdue]
    exact .of_eq (sendNotification_eq h.cfgLegal) { hmoved with }
  · exact .of_eq (exec_pollSStart_quiet hp hready hdue) h

/-- R174: a frame that passes the checks of its width goes on to S_DECODE. -/
theorem Inv.validated (hp : s.polls .packetReady) {wide : Bool}
    (hlen : (if wide = true then ovh16 else ovh8) ≤ s.rxIdx) (hcap : s.rxIdx ≤ s.cfg.cap) :
    Inv { s with crc16Mode := wide, sessionState := .decode } := by
  have hwidth := h.crc_width_set hp.1 (.inr hp.2) wide
  exact hwidth.moved hp (by decide) (by decide) nofun (fun _ => h.exchangeReady (.inl hp.2)) fun _ => ⟨hlen, hcap⟩

/-- R174: a frame that fails a check of its width is dropped. -/
theorem Inv.dropped (hp : s.polls .packetReady) (wide : Bool) :
    Inv { s with crc16Mode := wide, sessionState := .finish } :=
  (h.crc_width_set hp.1 (.inr hp.2) wide).finished hp (by decide)

theorem sound_validate8 (hp : s.polls .packetReady) : Sound (validate8 s) := by
  have hdropped := h.dropped hp false
  refine .of_eq (validate8_eq s) ?_
  split_ifs with hlen
  · exact hdropped
  · have hvalid := h.validated (wide := false) hp (show 4 ≤ s.rxIdx by omega) (by omega)
    exact { hvalid with }
  · exact { hdropped with }

theorem sound_validate16 (hp : s.polls .packetReady) : Sound (validate16 s) := by
  have hdropped := h.dropped hp true
  refine .of_eq (validate16_eq s) ?_
  split_ifs with hlen
  · exact hdropped
  · have hvalid := h.validated (wide := true) hp (show 5 ≤ s.rxIdx by omega) (by omega)
    exact { hvalid with }
  · exact { hdropped with }

theorem sound_pollSPacketReady (hp : s.polls .packetReady) : Sound (exec .pollSPacketReady s) := by
  have hl := h.cfgLegal
  have hcap : 0 < s.cfg.cap := lt_of_lt_of_le (by decide) (legal_five_le_cap hl)
  have habandoned : Inv (abandon s) := h.finished hp (by decide)
  by_cases hempty : s.rxIdx = 0
  · exact .of_eq (exec_pollSPacketReady_empty hp hempty) habandoned
  have hidx : 1 ≤ s.rxIdx := by omega
  by_cases h8 : s.pktByte 0 = s.cfg.hdrReq8
  · rw [exec_pollSPacketReady_req8 hp hidx hcap (h8 ▸ controlOf_hdrReq8 s.cfg)]
    exact sound_validate8 h hp
  by_cases h16 : s.pktByte 0 = s.cfg.hdrReq16
  · rw [exec_pollSPacketReady_req16 hp hidx hcap (h16 ▸ controlOf_hdrReq16 hl)]
    exact sound_validate16 h hp
  · exact .of_eq (execPollSPacketReady_abandons hp hidx hcap h8 h16) habandoned

theorem sound_pollSDecode (hp : s.polls .decode) : Sound (exec .pollSDecode s) := by
  have habandoned : Inv (abandon s) := h.finished hp (by decide)
  rw [exec_pollSDecode_eq h.cfgLegal hp]
  refine .ite (fun _ => .next ?programming) fun _ => .ite (fun _ => .next ?broadcast) fun _ =>
    .ite (fun _ => ?own) fun _ => .next habandoned
  case programming =>
    unfold programmingAnswer
    split
    case isTrue haccept => exact (h.address_assigned haccept.2).command_finished hp _
    case isFalse => exact habandoned
  case broadcast =>
    dsimp only [broadcastAction]
    split
    · exact (h.reason_raised (legal_reasons_ne_none h.cfgLegal).2).finished hp (by decide)
    · exact h.finished hp (by decide)
  case own =>
    rw [dispatch_eq_handle]
    exact sound_handle h hp rfl

theorem sound_pollSRespond (hp : s.polls .respond) : Sound (exec .pollSRespond s) := by
  obtain ⟨hmin, hmax⟩ := h.exchangeLen (.inr hp.2)
  have hcap : 1 ≤ s.cfg.cap := le_trans (by decide) (legal_five_le_cap h.cfgLegal)
  have hlen : Inv { s with txLen := s.rxIdx } := h.tx_len_set hp (by decide) hmax
  have hpkt := hlen.pkt_written (vs := [s.ackVariant]) hp.1 (show 0 + 1 ≤ s.cfg.cap from hcap)
  have hmoved := hpkt.moved (st' := .txStart) hp (by decide) (by decide) (fun _ => hmin) (by simp) (by simp)
  rw [exec_pollSRespond hp rfl]
  exact .of_eq (respondWith_next.2 ⟨hcap, rfl⟩) hmoved

/-- R177: the CRC goes to the last bytes of the packet. -/
theorem sound_pollSTxStart (hp : s.polls .txStart) : Sound (exec .pollSTxStart s) := by
  have hlen := h.txStartLen hp.2
  have hcap := h.txLenBound
  obtain ⟨h8, h16⟩ := crc_le_overhead s
  cases hmode : s.crc16Mode with
  | false =>
    have hone : 1 ≤ s.txLen := h8.trans hlen
    have hwritten := h.pkt_written (vs := [crc8 s.cfg (s.pktBytes (s.txLen - 1))]) hp.1
      (show s.txLen - 1 + 1 ≤ s.cfg.cap by omega)
    exact .of_eq (exec_pollSTxStart_crc8 hp hcap hmode hone) (Inv.armed { hwritten with } hp)
  | true =>
    have htwo : 2 ≤ s.txLen := (h16 hmode).trans hlen
    have hwritten := h.pkt_written (vs := [loByte (crc16 s.cfg 0 (s.pktBytes (s.txLen - 2))),
      hiByte (crc16 s.cfg 0 (s.pktBytes (s.txLen - 2)))]) hp.1 (show s.txLen - 2 + 2 ≤ s.cfg.cap by omega)
    exact .of_eq (exec_pollSTxStart_crc16 hp hcap hmode htwo) (Inv.armed { hwritten with } hp)

theorem sound_pollSWaitTx (hp : s.polls .waitTx) : Sound (exec .pollSWaitTx s) := by
  refine .onlyIf hp (.next ?_)
  split
  case isTrue hidle => exact h.drain_awaited hp hidle
  case isFalse => exact h

theorem sound_pollSWaitDrain (hp : s.polls .waitDrain) : Sound (exec .pollSWaitDrain s) := by
  cases hempty : s.uartTxEmpty with
  | true => exact .of_eq (exec_pollSWaitDrain_empty hp hempty) { h.driver_released hp with }
  | false => exact .of_eq (exec_pollSWaitDrain_draining hp hempty) h

theorem sound_poll : Sound (exec .poll s) := by
  cases hfg : s.fgCont with
  | fgI2cWait =>
    rw [exec_poll_of_hold hfg]
    exact sound_pollFgI2cWait h hfg
  | fgNone =>
    rw [exec_poll_of_polls ⟨hfg, rfl⟩]
    cases hst : s.sessionState with
    | start => exact sound_pollSStart h ⟨hfg, hst⟩
    | packetReady => exact sound_pollSPacketReady h ⟨hfg, hst⟩
    | decode => exact sound_pollSDecode h ⟨hfg, hst⟩
    | respond => exact sound_pollSRespond h ⟨hfg, hst⟩
    | txStart => exact sound_pollSTxStart h ⟨hfg, hst⟩
    | waitTx => exact sound_pollSWaitTx h ⟨hfg, hst⟩
    | waitDrain => exact sound_pollSWaitDrain h ⟨hfg, hst⟩
    | finish => exact .of_eq (exec_pollSFinish ⟨hfg, hst⟩) (h.returned ⟨hfg, hst⟩)

end Poll

/-! ### The events of the handlers -/

/-- The nine phases of 44_i2c_engine.md R215. -/
theorem phase_cases : ∀ p : BitVec 4, p ≤ 8 →
    p = 0 ∨ p = 1 ∨ p = 2 ∨ p = 3 ∨ p = 4 ∨ p = 5 ∨ p = 6 ∨ p = 7 ∨ p = 8 := by
  decide

section Events
variable {s : State} (h : Inv s)
include h

/-- 41_frame_receiver.md R150: the byte runs the row of its class, and only a drop leaves the ready packet alone. -/
theorem sound_rxByte (b : Byte) : Sound (exec (.rxByte b) s) := by
  obtain ⟨t, ht, -⟩ := exec_rxByte_total s b
  refine .of_eq ht ?_
  have hready (hk : s.rxClass b ≠ .drop) : s.pktReady = false :=
    Bool.eq_false_iff.2 fun hready => hk (rxClass_of_pktReady hready b)
  rw [exec, execRxByte] at ht
  cases hk : s.rxClass b <;> rw [hk] at ht hready <;> obtain ⟨-, ⟨⟩⟩ := onlyIf_next.1 ht
  case drop | ignore => exact h
  case escaped =>
    have hcleared : Inv { s with rxEsc := false } := { h with }
    exact hcleared.byte_appended (hready (by decide)) b
  case start => exact h.frame_begun (hready (by decide))
  case endMark => exact h.packet_latched
  case esc => exact { h with }
  case data => exact h.byte_appended (hready (by decide)) b

/-- 43_frame_transmitter.md R200. -/
theorem sound_txReady : Sound (exec .txReady s) := by
  cases hen : s.txIrqEn with
  | false => exact .of_eq (exec_txReady_disabled hen) h
  | true =>
    cases hst : s.txState with
    | idle => exact .of_eq (exec_txReady_idle hen hst) h.start_mark_sent
    | done => exact .of_eq (exec_txReady_done hen hst) h.end_mark_sent
    | escWait =>
      have hidx := h.txIdx_lt_cap hen (.inr hst)
      exact .of_eq (exec_txReady_escWait hen hidx hst) (h.byte_sent (.inr hst))
    | sending =>
      have hidx := h.txIdx_lt_cap hen (.inl hst)
      by_cases hp : s.pktByte s.txIdx ≤ s.cfg.esc
      · exact .of_eq (exec_txReady_sending_esc hen hidx hst hp) (h.esc_sent hst)
      · exact .of_eq (exec_txReady_sending_data hen hidx hst hp) (h.byte_sent (.inl hst))

theorem sound_tick : Sound (execAll [.tickRx, .tickArb] s) := .of_eq rfl h.receiver_ticked.arbitrator_ticked

/-- 44_i2c_engine.md R215: the cursor of a busy engine is at one of its nine phases. -/
theorem sound_i2cEvent (d : Byte) : Sound (exec (.i2cEvent d) s) := by
  cases hbusy : s.i2cBusy with
  | false => exact .of_eq (exec_i2cEvent_idle hbusy d) h
  | true =>
    obtain hp | hp | hp | hp | hp | hp | hp | hp | hp := phase_cases s.i2cPhase h.phaseLegal
    · exact .of_eq (exec_i2cEvent_ph0 ⟨hbusy, hp⟩ d) (h.bus_stepped (by decide) _)
    · exact .of_eq (exec_i2cEvent_ph1 ⟨hbusy, hp⟩ d) (h.bus_stepped (by decide) _)
    · exact .of_eq (exec_i2cEvent_ph2 ⟨hbusy, hp⟩ d) (h.bus_stepped (by decide) _)
    · exact .of_eq (exec_i2cEvent_ph3 ⟨hbusy, hp⟩ d) (h.bus_stepped (by decide) _)
    · cases hdir : s.i2cDir with
      | write => exact .of_eq (exec_i2cEvent_ph4_write ⟨hbusy, hp⟩ hdir d) h.bus_done
      | read => exact .of_eq (exec_i2cEvent_ph4_read ⟨hbusy, hp⟩ hdir d) (h.bus_stepped (by decide) _)
    · exact .of_eq (exec_i2cEvent_ph5 ⟨hbusy, hp⟩ d) ((h.value_captured _).bus_stepped (by decide) _)
    · exact .of_eq (exec_i2cEvent_ph6 ⟨hbusy, hp⟩ d) (h.bus_stepped (by decide) _)
    · exact .of_eq (exec_i2cEvent_ph7 ⟨hbusy, hp⟩ d) { h with phaseLegal := BitVec.le_refl 8 }
    · exact .of_eq (exec_i2cEvent_ph8 ⟨hbusy, hp⟩ d) h.bus_done

theorem sound_operations (e : Event) : Sound (execAll e.operations s) := by
  cases e with
  | tick => exact sound_tick h
  | rxByte b => rw [Event.operations, execAll_singleton]; exact sound_rxByte h b
  | txReady => rw [Event.operations, execAll_singleton]; exact sound_txReady h
  | i2cEvent d => rw [Event.operations, execAll_singleton]; exact sound_i2cEvent h d
  | poll => rw [Event.operations, execAll_singleton]; exact sound_poll h

/-- From every state that meets the invariants the step goes on to one that meets them. -/
theorem sound_step : Sound (step s) := by
  cases hs : s.script with
  | nil => exact .of_eq (step_of_script_nil h.cfgLegal hs) h
  | cons inp rest =>
    rw [step_eq_execAll h.cfgLegal hs]
    exact sound_operations (h.accepted inp rest) inp.event

end Events

/-- Settles O58: the step is sound, and what it answers is the state given. -/
theorem stepKeepsTheInvariants : Obligations.StepKeepsTheInvariants := by
  intro s t h ht
  obtain ⟨u, hu, hinv⟩ := sound_step h
  cases hu.symm.trans ht
  exact hinv

/-- Settles O59: the step is sound. -/
theorem stepNeverStops : Obligations.StepNeverStops := by
  intro s h
  obtain ⟨t, ht, -⟩ := sound_step h
  exact ⟨t, ht⟩

end Sys2Proof.Machine

/-! ## The CRC byte step bit by bit, and the laws of the engines (obligations O52, O53)

A register into which the byte has been XORed is the register of the bitwise machine XORed with the bits still to feed,
at the top. One shift feeds the topmost of them: the shift is linear apart from the polynomial, which is added when the
sum of the two top bits is set. After eight shifts no bit is left. -/

namespace Sys2Proof.Machine

/-! ### The bitwise machine, 40_crc.md R131 -/

/-- One data bit `d` fed, most significant end first. -/
def crcFeed {w : Nat} (poly r : BitVec w) (d : Bool) : BitVec w :=
  if (r.getLsbD (w - 1) ^^ d) = true then (r <<< 1) ^^^ poly else r <<< 1

section Feed
variable {w : Nat} (poly : BitVec w)

/-- A shift of the register with data `x` XORed in feeds the top bit of `x` and leaves the others one place up. -/
theorem crcShift_xor (r x : BitVec w) :
    crcShift .msbFirst poly (r ^^^ x) = crcFeed poly r (x.getLsbD (w - 1)) ^^^ (x <<< 1) := by
  rw [crcShift_msbFirst, crcFeed, BitVec.getLsbD_xor, BitVec.shiftLeft_xor_distrib]
  split_ifs
  · rw [BitVec.xor_assoc, BitVec.xor_assoc, BitVec.xor_comm poly]
  · rfl

/-- `n` shifts feed the `n` topmost bits of the data, the highest first. -/
theorem crcShifts_xor (n : Nat) (r x : BitVec w) :
    crcShifts .msbFirst poly n (r ^^^ x)
      = (List.range n).foldl (fun r k => crcFeed poly r ((x <<< k).getLsbD (w - 1))) r ^^^ (x <<< n) := by
  induction n with
  | zero => simp [crcShifts]
  | succ n ih =>
    rw [crcShifts_eq_iterate] at ih ⊢
    rw [Function.iterate_succ_apply', ih, crcShift_xor, List.range_succ, List.foldl_concat, BitVec.shiftLeft_add]

/-- The bits of a byte that stands at the top of the register. -/
theorem getLsbD_top_shiftLeft (hw : 8 ≤ w) (b : Byte) {k : Nat} (hk : k < 8) :
    ((b.setWidth w <<< (w - 8)) <<< k).getLsbD (w - 1) = b.getLsbD (7 - k) := by
  have htop : w - 1 < w := by omega
  have hshift : ¬ w - 1 < w - 8 + k := by omega
  have hinside : w - 1 - (w - 8 + k) < w := by omega
  have hindex : w - 1 - (w - 8 + k) = 7 - k := by omega
  rw [← BitVec.shiftLeft_add, BitVec.getLsbD_shiftLeft, BitVec.getLsbD_setWidth, decide_eq_true htop,
    decide_eq_false hshift, decide_eq_true hinside, hindex]
  rfl

/-- Eight shifts push the whole byte out. -/
theorem byte_shifted_out (hw : 8 ≤ w) (b : Byte) : (b.setWidth w <<< (w - 8)) <<< 8 = 0#w := by
  rw [← BitVec.shiftLeft_add]
  exact BitVec.shiftLeft_eq_zero (by omega)

/-- R131's sentence, at every width that holds a byte. -/
theorem crcByte_eq_foldl_crcFeed (hw : 8 ≤ w) (crc : BitVec w) (b : Byte) :
    crcByte .msbFirst poly crc b
      = [7, 6, 5, 4, 3, 2, 1, 0].foldl (fun r k => crcFeed poly r (b.getLsbD k)) crc := by
  have hbits : [7, 6, 5, 4, 3, 2, 1, 0] = (List.range 8).map (7 - ·) := rfl
  rw [crcByte, crcEnter, crcShifts_xor, byte_shifted_out hw, BitVec.xor_zero, hbits, List.foldl_map]
  refine List.foldl_ext _ _ crc fun r k hk => ?_
  rw [getLsbD_top_shiftLeft hw b (List.mem_range.1 hk)]

end Feed

/-- Settles O52: both widths hold a byte. -/
theorem crcFeedsOneBitAtATime : Obligations.CrcFeedsOneBitAtATime := by
  intro w poly crc b hw
  exact crcByte_eq_foldl_crcFeed poly (by omega) crc b

/-! ### The laws of the engines, R135, R136 and R138 -/

section Zero
variable {w : Nat} (dir : CrcDir) (poly : BitVec w)

theorem crcShift_zero : crcShift dir poly 0 = 0 := by
  cases dir <;> simp [crcShift]

theorem crcShifts_zero (n : Nat) : crcShifts dir poly n 0 = 0 := by
  induction n with
  | zero => rfl
  | succ n ih => rw [crcShifts, crcShift_zero, ih]

theorem crcByte_zero : crcByte dir poly 0 0 = 0 := by
  have henter : crcEnter dir (0 : BitVec w) 0 = 0 := by cases dir <;> simp [crcEnter]
  rw [crcByte, henter, crcShifts_zero]

/-- R138: a register at 0 absorbs zeros. -/
theorem foldl_crcByte_zeros (n : Nat) : (List.replicate n 0).foldl (crcByte dir poly) 0 = 0 := by
  induction n with
  | zero => rfl
  | succ n ih => rw [List.replicate_succ, List.foldl_cons, crcByte_zero, ih]

end Zero

/-- 45_arbitrator.md R248: with `CRC8_INIT` 0 the holdoff 0 is its own successor. -/
theorem exec_reseed_zero {s : State} (hinit : s.cfg.crc8Init = 0) (hzero : s.irqHoldoff = 0) :
    exec .reseed s = .next { s with crc8Reg := 0, irqHoldoff := 0, irqTimer := 0 } := by
  have hcrc : crc8 s.cfg [s.irqHoldoff.setWidth 8] = 0 := by
    rw [crc8, hinit, hzero]
    exact foldl_crcByte_zeros _ _ 1
  rw [exec_reseed, reseedHoldoff_eq_slice, hcrc]
  rfl

/-- Settles O53: both engines are folds over the buffer. -/
theorem crcLaws : Obligations.CrcLaws := by
  refine fun c seed a b n => ⟨List.foldl_append, rfl, rfl, foldl_crcByte_zeros _ _ n, fun hinit => ⟨?_, ?_⟩⟩
  · rw [crc8, hinit, foldl_crcByte_zeros]
  · rintro s rfl hzero
    exact exec_reseed_zero hinit hzero

end Sys2Proof.Machine
